-- ==== Sys2Proof/Word.lean ====
section
/-! DEFINITION. The word types of the block (spec 00_scope.md R5, 30_encoding.md R50, R58). -/

namespace Sys2Proof

/-- A byte of a buffer or of a payload: `BYTE_W = 8` (00_scope.md R5). -/
abbrev Byte := BitVec 8

/-- An operand value, a bit count or a bit position: `VALUE_W = POS_W = 64` (00_scope.md R5). -/
abbrev Word64 := BitVec 64

/-- A checksum or an entry of the checksum table (42_crc.md R110, R112). -/
abbrev CrcWord := BitVec 32

/-- A command word: exactly 80 bits, bit 79 the most significant (30_encoding.md R50). -/
abbrev CommandWord := BitVec 80

/-- A response word (30_encoding.md R58). -/
abbrev ResponseWord := BitVec 80

end Sys2Proof
end

