-- ==== Sys2Proof/Config.lean ====
section
/-! DEFINITION. The block's OPEN parameters (spec 00_scope.md R5, 92_eei_decisions.md, last table). -/

namespace Sys2Proof

/-- The buffer capacities, two of the three OPEN parameters of 00_scope.md R5. The third, `NUM_READERS`, is the
length of the list of readers (`Machine.State.numReaders`). DESIGN CHOICE: the parameters ride in the state, where
every rule reads them and no step changes them; notes/assumptions/3.md. -/
structure Config where
  /-- `WBUF_MAX_BYTES`; `none` is unbounded. -/
  wbufMaxBytes : Option Nat
  /-- `RBUF_MAX_BYTES`, at most 2^32 - 1. -/
  rbufMaxBytes : Nat
deriving DecidableEq, Repr

/-- The spec's defaults: `WBUF_MAX_BYTES` unbounded, `RBUF_MAX_BYTES` 2^32 - 1 (00_scope.md R5). -/
def Config.default : Config := { wbufMaxBytes := none, rbufMaxBytes := 4294967295 }

/-- The default of `NUM_READERS` (00_scope.md R5). -/
def Config.defaultNumReaders : Nat := 2

/-- The most readers a block may have: the `R` field has 4 bits (00_scope.md R5). -/
def Config.maxNumReaders : Nat := 16

/-- The range of `RBUF_MAX_BYTES`: "never more" than 2^32 - 1 (00_scope.md R5). -/
abbrev Config.wf (c : Config) : Prop := c.rbufMaxBytes ≤ 4294967295

end Sys2Proof
end

