-- ==== Sys2Proof/Syntax.lean ====
section
/-! DEFINITION. The commands of the block, one constructor per row of spec/opcode_table.json
(30_encoding.md R53), and the form in which a command crosses the port (R50, R52). -/

namespace Sys2Proof

/-- A command with its operands as decoded (30_encoding.md R51). `LEN` is no operand of its own: a well-formed
command has `LEN` equal to the length of its payload (R52), so the payload alone is held. -/
inductive Instr where
  /-- `WOPEN`, 40_writer.md R70. -/
  | wopen
  /-- `WRITE value, nbits`, 40_writer.md R72. -/
  | write (nbits : BitVec 8) (value : Word64)
  /-- `WRITES value, nbits`, 40_writer.md R75; `value` is the two's-complement pattern `u64(s)`. -/
  | writes (nbits : BitVec 8) (value : Word64)
  /-- `PADEMIT`, 40_writer.md R76. -/
  | pademit
  /-- `RLOAD`, 41_reader.md R90. -/
  | rload (payload : List Byte)
  /-- `ROPEN r, limit_bits`, 41_reader.md R92. -/
  | ropen (r : BitVec 4) (limitBits : Word64)
  /-- `READ r, nbits`, 41_reader.md R94. -/
  | read (r : BitVec 4) (nbits : BitVec 8)
  /-- `READS r, nbits`, 41_reader.md R97. -/
  | reads (r : BitVec 4) (nbits : BitVec 8)
  /-- `SKIP r, count`, 41_reader.md R99. -/
  | skip (r : BitVec 4) (count : Word64)
  /-- `CRC32`, 42_crc.md R115. -/
  | crc32 (payload : List Byte)
  /-- `CRCCHK expected`, 42_crc.md R117. -/
  | crcchk (expected : CrcWord) (payload : List Byte)
deriving DecidableEq, Repr

/-- What the host puts on the command port: one command word and a payload of bytes, possibly empty
(30_encoding.md R50, R52). -/
structure Command where
  word : CommandWord
  payload : List Byte
deriving DecidableEq, Repr

end Sys2Proof
end

