-- ==== Sys2Proof/WellFormed.lean ====
section
/-! DEFINITION. Which commands are well formed: those that the encoding of 30_encoding.md can carry and that its
decoder accepts for a block with a given number of readers. -/

namespace Sys2Proof

/-- A reader number names a reader of the block (30_encoding.md R55 (c)). -/
def readerInRange (numReaders : Nat) (r : BitVec 4) : Bool := decide (r.toNat < numReaders)

/-- A payload's length fits the 32-bit field `LEN` (30_encoding.md R50, R52). -/
def payloadFits (payload : List Byte) : Bool := decide (payload.length < 2 ^ 32)

/-- The command can be sent and is accepted by the decoder of a block with `numReaders` readers. -/
def WellFormed (numReaders : Nat) (i : Instr) : Bool :=
  match i with
  | .wopen => true
  | .write _ _ => true
  | .writes _ _ => true
  | .pademit => true
  | .rload payload => payloadFits payload
  | .ropen r _ => readerInRange numReaders r
  | .read r _ => readerInRange numReaders r
  | .reads r _ => readerInRange numReaders r
  | .skip r _ => readerInRange numReaders r
  | .crc32 payload => payloadFits payload
  | .crcchk _ payload => payloadFits payload

end Sys2Proof
end

