-- ==== Sys2Proof/Decode.lean ====
section
/-! DEFINITION. The decoder of command words, total on every word with every payload, and the encoder
(spec 30_encoding.md R50 to R56). -/

namespace Sys2Proof

/-- Why a command is an `IllegalCommand`, in the order of the tests (30_encoding.md R55, 60_exceptions.md R140). -/
inductive DecodeError where
  /-- (a) `OP` is 0x0, 0x5, 0x6, 0x7 or 0xF. -/
  | reservedOpcode
  /-- (b) a must-be-zero field of the selected row is not zero. -/
  | reservedField
  /-- (c) the reader number is not below `NUM_READERS`. -/
  | readerNumber
  /-- (d) the payload length is not `LEN`, or a payload comes with a command that takes none. -/
  | payloadLength
deriving DecidableEq, Repr

/-! ## The fields of the command word (R50) -/

/-- `OP`, bits [79:76]. -/
def opField (w : CommandWord) : BitVec 4 := w.extractLsb' 76 4
/-- `R`, bits [75:72]. -/
def rField (w : CommandWord) : BitVec 4 := w.extractLsb' 72 4
/-- `N`, bits [71:64]. -/
def nField (w : CommandWord) : BitVec 8 := w.extractLsb' 64 8
/-- `V`, bits [63:0]. -/
def vField (w : CommandWord) : Word64 := w.extractLsb' 0 64
/-- `LEN = V[63:32]`. -/
def lenField (w : CommandWord) : BitVec 32 := w.extractLsb' 32 32
/-- `X = V[31:0]`. -/
def xField (w : CommandWord) : CrcWord := w.extractLsb' 0 32

/-! ## The decoder -/

/-- What the word alone says: how many payload bytes the command takes and the command once they are given. -/
structure Header where
  payloadLength : Nat
  instr : List Byte → Instr

/-- A header of a command that takes no payload (R52). -/
def Header.plain (i : Instr) : Header := { payloadLength := 0, instr := fun _ => i }

/-- The test of must-be-zero fields (R54, R55 (b)). -/
def requireZero (fieldsZero : Bool) (h : Except DecodeError Header) : Except DecodeError Header :=
  if fieldsZero then h else .error .reservedField

/-- The test of the reader number (R55 (c)). -/
def requireReader (numReaders : Nat) (w : CommandWord) (i : Instr) : Except DecodeError Header :=
  if readerInRange numReaders (rField w) then .ok (Header.plain i) else .error .readerNumber

/-- The decoding of the word, tests (a), (b) and (c) of R55 in that order, by the opcode map of R53. -/
def decodeHeader (numReaders : Nat) (w : CommandWord) : Except DecodeError Header :=
  match (opField w).toNat with
  | 0x1 => requireZero (rField w == 0 && nField w == 0 && vField w == 0) (.ok (Header.plain .wopen))
  | 0x2 => requireZero (rField w == 0) (.ok (Header.plain (.write (nField w) (vField w))))
  | 0x3 => requireZero (rField w == 0) (.ok (Header.plain (.writes (nField w) (vField w))))
  | 0x4 => requireZero (rField w == 0 && nField w == 0 && vField w == 0) (.ok (Header.plain .pademit))
  | 0x8 => requireZero (rField w == 0 && nField w == 0 && xField w == 0) (.ok ⟨(lenField w).toNat, .rload⟩)
  | 0x9 => requireZero (nField w == 0) (requireReader numReaders w (.ropen (rField w) (vField w)))
  | 0xA => requireZero (vField w == 0) (requireReader numReaders w (.read (rField w) (nField w)))
  | 0xB => requireZero (vField w == 0) (requireReader numReaders w (.reads (rField w) (nField w)))
  | 0xC => requireZero (nField w == 0) (requireReader numReaders w (.skip (rField w) (vField w)))
  | 0xD => requireZero (rField w == 0 && nField w == 0 && xField w == 0) (.ok ⟨(lenField w).toNat, .crc32⟩)
  | 0xE => requireZero (rField w == 0 && nField w == 0) (.ok ⟨(lenField w).toNat, .crcchk (xField w)⟩)
  | _ => .error .reservedOpcode

/-- The payload test (R55 (d)). -/
def attachPayload (h : Header) (payload : List Byte) : Except DecodeError Instr :=
  if payload.length = h.payloadLength then .ok (h.instr payload) else .error .payloadLength

/-- The decoder: every word with every payload is a command or is rejected by name (R55). -/
def decode (numReaders : Nat) (w : CommandWord) (payload : List Byte) : Except DecodeError Instr :=
  match decodeHeader numReaders w with
  | .ok h => attachPayload h payload
  | .error e => .error e

/-! ## The encoder -/

/-- A command word from its fields, `{OP, R, N, V}` (R50). -/
def commandWord (op r : BitVec 4) (n : BitVec 8) (v : Word64) : CommandWord :=
  op ++ r ++ n ++ v

/-- `V` from `{LEN, X}` (R50). -/
def lenX (len x : BitVec 32) : Word64 := len ++ x

/-- The opcode of each command (R53). -/
def Instr.opcode : Instr → BitVec 4
  | .wopen => 0x1
  | .write _ _ => 0x2
  | .writes _ _ => 0x3
  | .pademit => 0x4
  | .rload _ => 0x8
  | .ropen _ _ => 0x9
  | .read _ _ => 0xA
  | .reads _ _ => 0xB
  | .skip _ _ => 0xC
  | .crc32 _ => 0xD
  | .crcchk _ _ => 0xE

/-- The payload a command carries (R52). -/
def Instr.payload : Instr → List Byte
  | .rload p => p
  | .crc32 p => p
  | .crcchk _ p => p
  | .wopen => []
  | .write _ _ => []
  | .writes _ _ => []
  | .pademit => []
  | .ropen _ _ => []
  | .read _ _ => []
  | .reads _ _ => []
  | .skip _ _ => []

/-- The command word of a command, from the encoding tables of R53; `LEN` is the payload's length. -/
def encodeWord (i : Instr) : CommandWord :=
  match i with
  | .wopen => commandWord i.opcode 0 0 0
  | .write n v => commandWord i.opcode 0 n v
  | .writes n v => commandWord i.opcode 0 n v
  | .pademit => commandWord i.opcode 0 0 0
  | .rload p => commandWord i.opcode 0 0 (lenX (BitVec.ofNat 32 p.length) 0)
  | .ropen r v => commandWord i.opcode r 0 v
  | .read r n => commandWord i.opcode r n 0
  | .reads r n => commandWord i.opcode r n 0
  | .skip r v => commandWord i.opcode r 0 v
  | .crc32 p => commandWord i.opcode 0 0 (lenX (BitVec.ofNat 32 p.length) 0)
  | .crcchk x p => commandWord i.opcode 0 0 (lenX (BitVec.ofNat 32 p.length) x)

/-- A command as it crosses the port. -/
def encode (i : Instr) : Command := { word := encodeWord i, payload := i.payload }

/-! ## The opcode table (R53) -/

/-- The mnemonic of each command, as spec/opcode_table.json spells it. -/
def Instr.mnemonic : Instr → String
  | .wopen => "WOPEN"
  | .write _ _ => "WRITE"
  | .writes _ _ => "WRITES"
  | .pademit => "PADEMIT"
  | .rload _ => "RLOAD"
  | .ropen _ _ => "ROPEN"
  | .read _ _ => "READ"
  | .reads _ _ => "READS"
  | .skip _ _ => "SKIP"
  | .crc32 _ => "CRC32"
  | .crcchk _ _ => "CRCCHK"

/-- A row of the opcode table: a word `w` selects it iff `w & mask = match` (R53). -/
structure OpcodeRow where
  mnemonic : String
  pattern : CommandWord
  mask : CommandWord
deriving DecidableEq, Repr

/-- The word selects the row (R53). -/
def OpcodeRow.selects (row : OpcodeRow) (w : CommandWord) : Bool := w &&& row.mask == row.pattern

/-- The opcode table's second half, letter for letter (R53). The decoder above does not read it: that the two agree
is a statement about them. -/
def opcodeTable : List OpcodeRow :=
  [ ⟨"WOPEN",   0x10000000000000000000, 0xFFFFFFFFFFFFFFFFFFFF⟩,
    ⟨"WRITE",   0x20000000000000000000, 0xFF000000000000000000⟩,
    ⟨"WRITES",  0x30000000000000000000, 0xFF000000000000000000⟩,
    ⟨"PADEMIT", 0x40000000000000000000, 0xFFFFFFFFFFFFFFFFFFFF⟩,
    ⟨"RLOAD",   0x80000000000000000000, 0xFFFF00000000FFFFFFFF⟩,
    ⟨"ROPEN",   0x90000000000000000000, 0xF0FF0000000000000000⟩,
    ⟨"READ",    0xA0000000000000000000, 0xF000FFFFFFFFFFFFFFFF⟩,
    ⟨"READS",   0xB0000000000000000000, 0xF000FFFFFFFFFFFFFFFF⟩,
    ⟨"SKIP",    0xC0000000000000000000, 0xF0FF0000000000000000⟩,
    ⟨"CRC32",   0xD0000000000000000000, 0xFFFF00000000FFFFFFFF⟩,
    ⟨"CRCCHK",  0xE0000000000000000000, 0xFFFF0000000000000000⟩ ]

/-! ## The host's view of the decoder -/

/-- A table word as it crosses the port: the word is the number's 80 low bits, and the payload its `LEN` field
announces, if its row takes one, is bytes of zeros. -/
def tableCommand (numReaders w : Nat) : Command :=
  match decodeHeader numReaders (BitVec.ofNat 80 w) with
  | .ok h => { word := BitVec.ofNat 80 w, payload := List.replicate h.payloadLength 0 }
  | .error _ => { word := BitVec.ofNat 80 w, payload := [] }

/-- What the decoder reads from a table word, on a block with the default number of readers. It is
`decode 2 c.word c.payload` for `c = tableCommand 2 w` (proved as `Laws.decodeTableWord_eq_decode`), written without
the payload test, so that a large `LEN` need not be counted. The table gives every row its whole 80-bit word, so
`nbits` selects nothing; notes/assumptions/12.md. -/
def decodeTableWord (_nbits w : Nat) : Option Instr :=
  match decodeHeader Config.defaultNumReaders (BitVec.ofNat 80 w) with
  | .ok h => some (h.instr (List.replicate h.payloadLength 0))
  | .error _ => none

end Sys2Proof
end

