-- ==== Sys2Proof/Machine/State.lean ====
section
/-! DEFINITION. The state of the block (spec 10_state.md), its reset value (10_state.md R23), and the reasons a step
of the model can stop. -/

namespace Sys2Proof.Machine

/-! ## Faults of the block: responses, after which the machine goes on -/

/-- The six faults of 60_exceptions.md R130. Each is a response (and a next state); none stops the machine. -/
inductive FaultCode where
  /-- Code 1: more bits asked for than the reader may still consume. -/
  | streamExhausted
  /-- Code 2: a width outside 1..64. -/
  | illegalWidth
  /-- Code 3: the decoder rejects the command. -/
  | illegalCommand
  /-- Code 4: the addressed unit is not OPEN, or no buffer is loaded. -/
  | badState
  /-- Code 5: the write would pass the counter's or the buffer's bound. -/
  | writerOverflow
  /-- Code 6: a limit beyond the buffer, or a payload beyond the buffer's capacity. -/
  | badLimit
deriving DecidableEq, Repr

/-! ## The units -/

/-- `W.state` (10_state.md R15). -/
inductive WriterState where
  | closed
  | opened
  | done
  | faulted
deriving DecidableEq, Repr

/-- `R[r].state` (10_state.md R17). -/
inductive ReaderState where
  | closed
  | opened
  | faulted
deriving DecidableEq, Repr

/-- The writer `W` (10_state.md R12 to R15). -/
structure Writer where
  /-- `W.state`. -/
  state : WriterState
  /-- `W.bytes`, the committed bytes; `W.len` is its length. -/
  bytes : List Byte
  /-- `W.acc`, the pending bits left-justified. -/
  acc : Byte
  /-- `W.cnt`, how many bits are pending, 0..7. -/
  cnt : Fin 8
  /-- `W.total`. -/
  total : Word64
  /-- `W.fault`; `none` is code 0. -/
  fault : Option FaultCode
deriving DecidableEq, Repr

/-- The reader buffer `RB` (10_state.md R16). -/
structure ReaderBuffer where
  /-- `RB.bytes`; `RB.len` is its length. -/
  bytes : List Byte
  /-- `RB.loaded`. -/
  loaded : Bool
deriving DecidableEq, Repr

/-- A reader `R[r]` (10_state.md R17). -/
structure Reader where
  /-- `R[r].state`. -/
  state : ReaderState
  /-- `R[r].pos`. -/
  pos : Word64
  /-- `R[r].limit`. -/
  limit : Word64
  /-- `R[r].fault`; `none` is code 0. -/
  fault : Option FaultCode
deriving DecidableEq, Repr

/-- The CRC unit's status fields `C` (10_state.md R19). -/
structure CrcStatus where
  /-- `C.valid`. -/
  valid : Bool
  /-- `C.result`. -/
  result : CrcWord
  /-- `C.checked`. -/
  checked : Bool
  /-- `C.expect`. -/
  expect : CrcWord
  /-- `C.mismatch`. -/
  mismatch : Bool
deriving DecidableEq, Repr

/-! ## The ports -/

/-- A response (30_encoding.md R58); `Response.word` gives its 80 bits. -/
inductive Response where
  /-- `ok(v)`, with a payload of bytes (empty for every command but `PADEMIT`). -/
  | ok (value : Word64) (payload : List Byte)
  /-- `warn(v)`, of `CRCCHK` alone. -/
  | warn (value : Word64)
  /-- `fault(code)`. -/
  | fault (code : FaultCode)
deriving DecidableEq, Repr

/-- What the host does at the block's ports, in its order of issue: a command (10_state.md R11), a register read
(R21), a reset between commands (70_reset_and_hazards.md R151). -/
inductive PortEvent where
  | command (c : Command)
  | regRead (number : Nat)
  | reset
deriving DecidableEq, Repr

/-- What leaves the block: the response of a command, or the value of a register read. -/
inductive PortOutput where
  | response (r : Response)
  | regValue (number : Nat) (value : Word64)
deriving DecidableEq, Repr

/-! ## The whole state -/

/-- The state of the block. `cfg`, `pending` and `out` are the model's own: the parameters and inputs of the step
(10_state.md R24) and the outputs of the run (70_reset_and_hazards.md R165); notes/assumptions/1.md, 2.md, 3.md. -/
structure State where
  /-- The buffer capacities (00_scope.md R5). -/
  cfg : Config
  /-- `W`. -/
  writer : Writer
  /-- `RB`. -/
  rbuf : ReaderBuffer
  /-- `R[0] .. R[NUM_READERS-1]`. -/
  readers : List Reader
  /-- `C`. -/
  crc : CrcStatus
  /-- `FAULT_LOG` (10_state.md R20). -/
  faultLog : Word64
  /-- The host's port events not yet served, in issue order. -/
  pending : List PortEvent
  /-- What has left the block, oldest first. -/
  out : List PortOutput
deriving DecidableEq, Repr

/-- `NUM_READERS` (00_scope.md R5): the block holds one reader for each `r` below it (10_state.md R17). -/
abbrev State.numReaders (s : State) : Nat := s.readers.length

/-! ## Reset values (10_state.md R23) -/

/-- The writer after reset. -/
def Writer.reset : Writer :=
  { state := .closed, bytes := [], acc := 0, cnt := 0, total := 0, fault := none }

/-- The reader buffer after reset. -/
def ReaderBuffer.reset : ReaderBuffer := { bytes := [], loaded := false }

/-- A reader after reset. -/
def Reader.reset : Reader := { state := .closed, pos := 0, limit := 0, fault := none }

/-- The CRC status fields after reset. -/
def CrcStatus.reset : CrcStatus :=
  { valid := false, result := 0, checked := false, expect := 0, mismatch := false }

/-- The machine right after reset (10_state.md R23, 70_reset_and_hazards.md R150), with the default parameters of
00_scope.md R5 and nothing issued yet. -/
def State.reset : State :=
  { cfg := Config.default
    writer := Writer.reset
    rbuf := ReaderBuffer.reset
    readers := List.replicate Config.defaultNumReaders Reader.reset
    crc := CrcStatus.reset
    faultLog := 0
    pending := []
    out := [] }

/-! ## The buffers as memories -/

/-- The cells of a byte buffer from address `base` on. -/
def Memory.cellsFrom (base : Nat) : List Byte → List Host.Cell
  | [] => []
  | b :: bs => (base, b) :: Memory.cellsFrom (base + 1) bs

/-- A byte buffer as (address, byte) cells: byte `i` stands at address `i`. The buffers themselves are held as the
list of their bytes, as 10_state.md R12 and R16 give them; notes/assumptions/4.md. -/
def Memory.cells (buffer : List Byte) : List Host.Cell := Memory.cellsFrom 0 buffer

/-- The canonical form of a list of cells: addresses strictly rising. An unlisted address holds no byte at all, so no
entry can equal what an unlisted address reads as. -/
abbrev Memory.wf (m : List Host.Cell) : Prop := (m.map Prod.fst).Pairwise (· < ·)

/-! ## Why a step of the model stops -/

/-- The reasons for which the machine stops. The faults of the block are not among them: they are responses. -/
inductive Fault where
  /-- Raised by `READ` and `READS` where `RBit` would be evaluated at a bit address past the end of `RBUF`, where
  20_memory.md R31 calls it undefined. No state that meets the invariant of 10_state.md R17 reaches it. Safe: the
  model stops where the spec gives nothing; notes/assumptions/5.md. -/
  | rbufOutOfRange
deriving DecidableEq, Repr

/-- The reasons for which the model gives an instruction no meaning. -/
inductive Refusal where
  /-- Raised by an arm of `exec` whose instruction has no meaning yet. No arm raises it. Safe. -/
  | notModelled (mnemonic : String)
deriving DecidableEq, Repr

end Sys2Proof.Machine
end

