-- ==== Sys2Proof/Machine/Operands.lean ====
section
/-! DEFINITION. Constants, operand forms and arithmetic of the rules (spec 00_scope.md R5 to R7, 43_laws.md R120).
All arithmetic is on natural numbers and integers, so no shift or sum can wrap (70_reset_and_hazards.md R158). -/

namespace Sys2Proof.Machine

/-! ## Constants (00_scope.md R5) -/

/-- `NBITS_MIN`. -/
def nbitsMin : Nat := 1
/-- `NBITS_MAX`. -/
def nbitsMax : Nat := 64
/-- `POS_W`. -/
def posW : Nat := 64
/-- `CRC_POLY`. -/
def crcPoly : CrcWord := 0xEDB88320
/-- `CRC_INIT`. -/
def crcInit : CrcWord := 0xFFFFFFFF
/-- `CRC_XOROUT`. -/
def crcXorOut : CrcWord := 0xFFFFFFFF

/-! ## Notation (00_scope.md R6, R7) -/

/-- `low(v, n) = v mod 2^n`. -/
def low (v n : Nat) : Nat := v % 2 ^ n

/-- `ceil8(n) = floor((n + 7) / 8)`. -/
def ceil8 (n : Nat) : Nat := (n + 7) / 8

/-- `zext_64(v) = v` for `v < 2^64`. -/
def zext64 (v : Nat) : Word64 := BitVec.ofNat 64 v

/-- `sext_n(v)`: `v` if `v[n-1] = 0`, else `v - 2^n`. -/
def sext (n v : Nat) : Int := if v.testBit (n - 1) then (v : Int) - 2 ^ n else v

/-- `u64(s) = s mod 2^64`. -/
def u64 (x : Int) : Word64 := BitVec.ofInt 64 x

/-! ## Operands (30_encoding.md R51) -/

/-- A width the block accepts: `1 ≤ N ≤ 64` (60_exceptions.md R130). -/
def legalWidth (n : Nat) : Bool := decide (nbitsMin ≤ n) && decide (n ≤ nbitsMax)

/-- The number of bits of a byte buffer, `8 · len` (41_reader.md R92). -/
def bitLength (buffer : List Byte) : Nat := 8 * buffer.length

end Sys2Proof.Machine

/-- `W.len` (10_state.md R12). -/
def Sys2Proof.Machine.Writer.len (w : Sys2Proof.Machine.Writer) : Nat := w.bytes.length

/-- `RB.len` (10_state.md R16). -/
def Sys2Proof.Machine.ReaderBuffer.len (b : Sys2Proof.Machine.ReaderBuffer) : Nat := b.bytes.length
end

