-- ==== Sys2Proof/Machine/Flags.lean ====
section
/-! DEFINITION. Codes of states and faults, the fault log's bits, the checks that raise faults, and the CRC unit's
flags (spec 10_state.md R15 to R20, 60_exceptions.md R130, 42_crc.md R115, R117). -/

namespace Sys2Proof.Machine

/-! ## Codes -/

/-- The code of a fault: in the response, in `FAULT_LOG` and in `W.fault` or `R[r].fault` (60_exceptions.md R130). -/
def FaultCode.code : FaultCode → Nat
  | .streamExhausted => 1
  | .illegalWidth => 2
  | .illegalCommand => 3
  | .badState => 4
  | .writerOverflow => 5
  | .badLimit => 6

/-- The bit of `FAULT_LOG` that a fault sets (10_state.md R20). -/
def FaultCode.logBit (c : FaultCode) : Word64 := 1#64 <<< c.code

/-- The value of a unit's fault register: 0 for no fault (10_state.md R15, R17). -/
def faultField (f : Option FaultCode) : BitVec 8 :=
  match f with
  | none => 0
  | some c => BitVec.ofNat 8 c.code

/-- The code of `W.state` (10_state.md R15). -/
def WriterState.code : WriterState → BitVec 2
  | .closed => 0
  | .opened => 1
  | .done => 2
  | .faulted => 3

/-- The code of `R[r].state` (10_state.md R17). -/
def ReaderState.code : ReaderState → BitVec 2
  | .closed => 0
  | .opened => 1
  | .faulted => 3

/-! ## Checks, in the order of 60_exceptions.md R140: the first that fails names the fault -/

/-- The byte count fits the writer's buffer (00_scope.md R5, `WBUF_MAX_BYTES`). -/
def wbufHolds (c : Config) (bytes : Nat) : Bool :=
  match c.wbufMaxBytes with
  | none => true
  | some m => decide (bytes ≤ m)

/-- `W.total + n >= 2^POS_W or ceil8(W.total + n) > WBUF_MAX_BYTES` (40_writer.md R71). -/
def writerOverflows (c : Config) (w : Writer) (n : Nat) : Bool :=
  decide (2 ^ posW ≤ w.total.toNat + n) || !wbufHolds c (ceil8 (w.total.toNat + n))

/-- The checks of `WRITE` and `WRITES` (40_writer.md R71). -/
def writeCheck (c : Config) (w : Writer) (n : Nat) : Option FaultCode :=
  if w.state ≠ .opened then some .badState
  else if !legalWidth n then some .illegalWidth
  else if writerOverflows c w n then some .writerOverflow
  else none

/-- The check of `PADEMIT` (40_writer.md R76). -/
def pademitCheck (w : Writer) : Option FaultCode :=
  if w.state ≠ .opened then some .badState else none

/-- The check of `RLOAD` (41_reader.md R90). -/
def rloadCheck (c : Config) (payload : List Byte) : Option FaultCode :=
  if c.rbufMaxBytes < payload.length then some .badLimit else none

/-- The checks of `ROPEN` (41_reader.md R92). -/
def ropenCheck (b : ReaderBuffer) (limit : Nat) : Option FaultCode :=
  if !b.loaded then some .badState
  else if bitLength b.bytes < limit then some .badLimit
  else none

/-- `count > R[r].limit - R[r].pos` on unbounded integers (41_reader.md R94, R99, R100 (d)). -/
def exhausted (rd : Reader) (count : Nat) : Bool := decide (rd.limit.toNat < rd.pos.toNat + count)

/-- The checks of `READ` and `READS` (41_reader.md R94, R97). -/
def readCheck (rd : Reader) (n : Nat) : Option FaultCode :=
  if rd.state ≠ .opened then some .badState
  else if !legalWidth n then some .illegalWidth
  else if exhausted rd n then some .streamExhausted
  else none

/-- The checks of `SKIP` (41_reader.md R99). -/
def skipCheck (rd : Reader) (count : Nat) : Option FaultCode :=
  if rd.state ≠ .opened then some .badState
  else if exhausted rd count then some .streamExhausted
  else none

/-! ## The CRC unit's flags -/

/-- `C.*` after `CRC32` (42_crc.md R115); `C.expect` is left unchanged. -/
def CrcStatus.computed (c : CrcStatus) (result : CrcWord) : CrcStatus :=
  { c with valid := true, result := result, checked := false, mismatch := false }

/-- `C.*` after `CRCCHK` (42_crc.md R117). -/
def CrcStatus.compared (result expect : CrcWord) : CrcStatus :=
  { valid := true, result := result, checked := true, expect := expect, mismatch := result != expect }

end Sys2Proof.Machine
end

