-- ==== Sys2Proof/Machine/Ops.lean ====
section
/-! DEFINITION. The named operations over the buffers, the units and the ports, and taking a fault
(spec 20_memory.md R30 to R34, 42_crc.md R110 to R113, 60_exceptions.md R133 to R137). -/

namespace Sys2Proof.Machine

/-! ## Reading bits -/

/-- Byte `i` of a buffer, where it exists (`WBUF[i]`, `RBUF[i]`: 10_state.md R12, R16). -/
def byteAt (buffer : List Byte) (i : Nat) : Option Byte := buffer[i]?

/-- The bit at bit address `k`: bit `7 - (k mod 8)` of byte `floor(k / 8)` (20_memory.md R30, R31). -/
def bitAt (buffer : List Byte) (k : Nat) : Option Bool :=
  (byteAt buffer (k / 8)).map fun b => b.getLsbD (7 - k % 8)

/-- The loop of `MemRead` (20_memory.md R33): `n` more bits from bit address `k` on, after those in `v`. -/
def memReadFrom (buffer : List Byte) (k v : Nat) : Nat → Option Nat
  | 0 => some v
  | n + 1 =>
    match bitAt buffer k with
    | none => none
    | some b => memReadFrom buffer (k + 1) (2 * v + b.toNat) n

/-- `MemRead(k, n)` (20_memory.md R33), where all `n` bits exist. -/
def memRead (buffer : List Byte) (k n : Nat) : Option Nat := memReadFrom buffer k 0 n

/-! ## Writing bits -/

/-- `AppendBit(b)` (20_memory.md R32). -/
def Writer.appendBit (w : Writer) (b : Bool) : Writer :=
  let acc := w.acc ||| (BitVec.ofNat 8 b.toNat <<< (7 - w.cnt.val))
  if w.cnt.val + 1 = 8 then
    { w with bytes := w.bytes ++ [acc], acc := 0, cnt := 0, total := w.total + 1 }
  else
    { w with acc := acc, cnt := w.cnt + 1, total := w.total + 1 }

/-- `MemWrite(v, n)` (20_memory.md R34): the bits `n-1` down to `0` of `v`, in that order. -/
def Writer.memWrite (w : Writer) (v : Nat) : Nat → Writer
  | 0 => w
  | n + 1 => (w.appendBit (v.testBit n)).memWrite v n

/-- The byte sequence that holds every bit written so far, `W.bytes ++ [W.acc]` (20_memory.md R32): bit `k` of the
stream is its bit at bit address `k`, for `k < W.total`. -/
def Writer.image (w : Writer) : List Byte := w.bytes ++ [w.acc]

/-- The padding of `PADEMIT` (40_writer.md R76): the pending bits, already left-justified, become the last byte. -/
def Writer.pad (w : Writer) : Writer :=
  if w.cnt = 0 then w else { w with bytes := w.bytes ++ [w.acc], acc := 0, cnt := 0 }

/-! ## Creating and closing units -/

/-- The writer that `WOPEN` creates (40_writer.md R70): the recovery of a FAULTED writer (60_exceptions.md R142). -/
def Writer.create : Writer :=
  { state := .opened, bytes := [], acc := 0, cnt := 0, total := 0, fault := none }

/-- The reader that `ROPEN` constructs (41_reader.md R92): the recovery of a FAULTED reader (60_exceptions.md R142). -/
def Reader.create (limit : Word64) : Reader := { state := .opened, pos := 0, limit := limit, fault := none }

/-- The reader that `RLOAD` leaves (41_reader.md R90). -/
def Reader.close : Reader := { state := .closed, pos := 0, limit := 0, fault := none }

/-- The cursor moved forward by `n` bits (41_reader.md R94, R99). -/
def Reader.advance (rd : Reader) (n : Nat) : Reader := { rd with pos := rd.pos + BitVec.ofNat 64 n }

/-! ## Updates of the state -/

/-- `W <- w`. -/
def State.setWriter (s : State) (w : Writer) : State := { s with writer := w }

/-- Reader `r`, where the block has it (10_state.md R17). -/
def State.reader? (s : State) (r : Nat) : Option Reader := s.readers[r]?

/-- `R[r] <- f R[r]`; no other reader changes. -/
def State.modifyReader (s : State) (r : Nat) (f : Reader → Reader) : State :=
  { s with readers := s.readers.modify r f }

/-- `C <- c`. -/
def State.setCrc (s : State) (c : CrcStatus) : State := { s with crc := c }

/-- Send something out of the block. -/
def State.emit (s : State) (o : PortOutput) : State := { s with out := s.out ++ [o] }

/-- Deliver the response of a command (30_encoding.md R58). -/
def State.respond (s : State) (r : Response) : State := s.emit (.response r)

/-- The buffer of the readers replaced and every reader closed (41_reader.md R90). -/
def State.loadBuffer (s : State) (payload : List Byte) : State :=
  { s with rbuf := { bytes := payload, loaded := true }, readers := List.replicate s.numReaders Reader.close }

/-- Reset of the block between commands (70_reset_and_hazards.md R150, R151): every element of 10_state.md R23 at its
reset value. The parameters and the port lists are not state of the block and stay; notes/assumptions/7.md. -/
def State.resetBlock (s : State) : State :=
  { s with
    writer := Writer.reset
    rbuf := ReaderBuffer.reset
    readers := List.replicate s.numReaders Reader.reset
    crc := CrcStatus.reset
    faultLog := 0 }

/-! ## Taking a fault (60_exceptions.md R133 to R136) -/

/-- The unit that a faulting command addresses. -/
inductive FaultUnit where
  /-- The writer (R134). -/
  | writer
  /-- Reader `r` (R134). -/
  | reader (r : Nat)
  /-- No unit with a FAULTED state: `RLOAD` (R135) or a rejected command (R136). -/
  | noUnit
deriving DecidableEq, Repr

/-- The writer's fault entry: FAULTED with the code of the first fault (R134). -/
def Writer.enterFault (w : Writer) (c : FaultCode) : Writer :=
  if w.state = .faulted then w else { w with state := .faulted, fault := some c }

/-- A reader's fault entry: FAULTED with the code of the first fault (R134). -/
def Reader.enterFault (rd : Reader) (c : FaultCode) : Reader :=
  if rd.state = .faulted then rd else { rd with state := .faulted, fault := some c }

/-- `FAULT_LOG[c] <- 1` (R134 to R136). -/
def State.logFault (s : State) (c : FaultCode) : State := { s with faultLog := s.faultLog ||| c.logBit }

/-- The addressed unit enters FAULTED; nothing of any other unit changes (R134 to R136, R138). -/
def State.enterFault (s : State) (u : FaultUnit) (c : FaultCode) : State :=
  match u with
  | .writer => s.setWriter (s.writer.enterFault c)
  | .reader r => s.modifyReader r (·.enterFault c)
  | .noUnit => s

/-- Taking a fault: the log, the unit, the response, and nothing else (R133 to R136). -/
def State.takeFault (s : State) (u : FaultUnit) (c : FaultCode) : State :=
  ((s.logFault c).enterFault u c).respond (.fault c)

/-! ## The checksum (42_crc.md) -/

/-- One step of the table recurrence (R110). -/
def crcShift (c : CrcWord) : CrcWord := if c.getLsbD 0 then (c >>> 1) ^^^ crcPoly else c >>> 1

/-- `n` steps of the table recurrence. -/
def crcShifts (c : CrcWord) : Nat → CrcWord
  | 0 => c
  | n + 1 => crcShifts (crcShift c) n

/-- Entry `i` of the table `T` (R110). `T` is a constant of the block, valid from reset (10_state.md R18). -/
def crcTable (i : Byte) : CrcWord := crcShifts (i.setWidth 32) 8

/-- The per-byte update: one table lookup (R112). -/
def crcUpdate (crc : CrcWord) (b : Byte) : CrcWord :=
  crcTable ((crc ^^^ b.setWidth 32).setWidth 8) ^^^ (crc >>> 8)

/-- `Crc(P)` (R112). -/
def crcOf (payload : List Byte) : CrcWord := payload.foldl crcUpdate crcInit ^^^ crcXorOut

end Sys2Proof.Machine
end

