-- ==== Sys2Proof/Machine/CrcCommands.lean ====
section
/-! DEFINITION. The CRC unit's commands (spec 42_crc.md). -/

namespace Sys2Proof.Machine

/-- `CRC32` (R115). -/
def execCrc32 (payload : List Byte) (s : State) : Host.Outcome State Fault Refusal :=
  let c := crcOf payload
  .next ((s.setCrc (s.crc.computed c)).respond (.ok (zext64 c.toNat) []))

/-- `CRCCHK expected` (R117): a mismatch is a warning, never a fault (R118). -/
def execCrcchk (expected : CrcWord) (payload : List Byte) (s : State) : Host.Outcome State Fault Refusal :=
  let c := crcOf payload
  .next ((s.setCrc (CrcStatus.compared c expected)).respond
    (if c = expected then .ok (zext64 c.toNat) [] else .warn (zext64 c.toNat)))

end Sys2Proof.Machine
end

