-- ==== Sys2Proof/Machine/ReaderCommands.lean ====
section
/-! DEFINITION. The reader buffer's and the readers' commands (spec 41_reader.md). -/

namespace Sys2Proof.Machine

/-- `RLOAD` (R90): legal in every state; `LEN` is the payload's length. -/
def execRload (payload : List Byte) (s : State) : Host.Outcome State Fault Refusal :=
  match rloadCheck s.cfg payload with
  | some c => .next (s.takeFault .noUnit c)
  | none => .next ((s.loadBuffer payload).respond (.ok 0 []))

/-- Run `k` on reader `r`. A reader the block does not have is an `IllegalCommand` (30_encoding.md R55 (c)), as the
decoder answers too; notes/assumptions/6.md. -/
def onReader (r : BitVec 4) (s : State) (k : Reader → Host.Outcome State Fault Refusal) :
    Host.Outcome State Fault Refusal :=
  match s.reader? r.toNat with
  | some rd => k rd
  | none => .next (s.takeFault .noUnit .illegalCommand)

/-- `ROPEN r, limit_bits` (R92): legal in every state of reader `r`. -/
def execRopen (r : BitVec 4) (limitBits : Word64) (s : State) : Host.Outcome State Fault Refusal :=
  onReader r s fun _ =>
    match ropenCheck s.rbuf limitBits.toNat with
    | some c => .next (s.takeFault (.reader r.toNat) c)
    | none => .next ((s.modifyReader r.toNat fun _ => Reader.create limitBits).respond (.ok 0 []))

/-- The checks, the fetch and the cursor's move that `READ` and `READS` share (R94, R97); `extend` makes the response's
value of the bits. -/
def fetchBits (r : BitVec 4) (n : Nat) (extend : Nat → Word64) (s : State) : Host.Outcome State Fault Refusal :=
  onReader r s fun rd =>
    match readCheck rd n with
    | some c => .next (s.takeFault (.reader r.toNat) c)
    | none =>
      match memRead s.rbuf.bytes rd.pos.toNat n with
      | none => .fault .rbufOutOfRange
      | some v => .next ((s.modifyReader r.toNat (·.advance n)).respond (.ok (extend v) []))

/-- `READ r, nbits` (R94): zero-extended. -/
def execRead (r : BitVec 4) (nbits : BitVec 8) (s : State) : Host.Outcome State Fault Refusal :=
  fetchBits r nbits.toNat zext64 s

/-- `READS r, nbits` (R97): sign-extended from bit `nbits - 1`. -/
def execReads (r : BitVec 4) (nbits : BitVec 8) (s : State) : Host.Outcome State Fault Refusal :=
  fetchBits r nbits.toNat (fun v => u64 (sext nbits.toNat v)) s

/-- `SKIP r, count` (R99): relative, forward, no bit fetched. -/
def execSkip (r : BitVec 4) (count : Word64) (s : State) : Host.Outcome State Fault Refusal :=
  onReader r s fun rd =>
    match skipCheck rd count.toNat with
    | some c => .next (s.takeFault (.reader r.toNat) c)
    | none => .next ((s.modifyReader r.toNat (·.advance count.toNat)).respond (.ok 0 []))

end Sys2Proof.Machine
end

