-- ==== Sys2Proof/Machine/WriterCommands.lean ====
section
/-! DEFINITION. The writer's commands (spec 40_writer.md). -/

namespace Sys2Proof.Machine

/-- `WOPEN` (R70): legal in every writer state. -/
def execWopen (s : State) : Host.Outcome State Fault Refusal :=
  .next ((s.setWriter Writer.create).respond (.ok 0 []))

/-- The checks of R71 and the append of R72, which `WRITE` and `WRITES` share. -/
def appendBits (n v : Nat) (s : State) : Host.Outcome State Fault Refusal :=
  match writeCheck s.cfg s.writer n with
  | some c => .next (s.takeFault .writer c)
  | none => .next ((s.setWriter (s.writer.memWrite v n)).respond (.ok 0 []))

/-- `WRITE value, nbits` (R72): `value` is unsigned. -/
def execWrite (nbits : BitVec 8) (value : Word64) (s : State) : Host.Outcome State Fault Refusal :=
  appendBits nbits.toNat value.toNat s

/-- `WRITES value, nbits` (R75): `value` is the pattern `u64(s)` of a signed `s`; no range check. -/
def execWrites (nbits : BitVec 8) (value : Word64) (s : State) : Host.Outcome State Fault Refusal :=
  appendBits nbits.toNat (u64 value.toInt).toNat s

/-- `PADEMIT` (R76): the response carries the pre-padding bit count and the padded bytes; `W.total` is kept. -/
def execPademit (s : State) : Host.Outcome State Fault Refusal :=
  match pademitCheck s.writer with
  | some c => .next (s.takeFault .writer c)
  | none =>
    let w := s.writer.pad
    .next ((s.setWriter { w with state := .done }).respond (.ok s.writer.total w.bytes))

end Sys2Proof.Machine
end

