-- ==== Sys2Proof/Machine/Dispatch.lean ====
section
/-! DEFINITION. Which meaning each command has, one arm per row of the opcode table (spec 30_encoding.md R53). -/

namespace Sys2Proof.Machine

def exec (i : Instr) (s : State) : Host.Outcome State Fault Refusal :=
  match i with
  -- the writer
  | .wopen => Sys2Proof.Machine.execWopen s
  | .write nbits value => Sys2Proof.Machine.execWrite nbits value s
  | .writes nbits value => Sys2Proof.Machine.execWrites nbits value s
  | .pademit => Sys2Proof.Machine.execPademit s
  -- the reader buffer and the readers
  | .rload payload => Sys2Proof.Machine.execRload payload s
  | .ropen r limitBits => Sys2Proof.Machine.execRopen r limitBits s
  | .read r nbits => Sys2Proof.Machine.execRead r nbits s
  | .reads r nbits => Sys2Proof.Machine.execReads r nbits s
  | .skip r count => Sys2Proof.Machine.execSkip r count s
  -- the CRC unit
  | .crc32 payload => Sys2Proof.Machine.execCrc32 payload s
  | .crcchk expected payload => Sys2Proof.Machine.execCrcchk expected payload s

end Sys2Proof.Machine
end

