-- ==== Sys2Proof/Machine/Registers.lean ====
section
/-! DEFINITION. The register-read port and its map (spec 10_state.md R21, R22). -/

namespace Sys2Proof.Machine

/-- `W_STATUS`: `STATE` [1:0], `PENDING_CNT` [4:2], `PENDING_BYTE` [15:8], `FAULT` [23:16]; the rest 0. -/
def wStatus (w : Writer) : Word64 :=
  0#40 ++ faultField w.fault ++ w.acc ++ 0#3 ++ BitVec.ofNat 3 w.cnt.val ++ w.state.code

/-- `RBUF_STATUS`: `LOADED` [0]. -/
def rbufStatus (b : ReaderBuffer) : Word64 := 0#63 ++ BitVec.ofBool b.loaded

/-- `CRC_STATUS`: `VALID` [0], `CHECKED` [1], `MISMATCH` [2]. -/
def crcStatus (c : CrcStatus) : Word64 :=
  0#61 ++ BitVec.ofBool c.mismatch ++ BitVec.ofBool c.checked ++ BitVec.ofBool c.valid

/-- `R_STATUS[r]`: `STATE` [1:0], `FAULT` [23:16]; the rest 0. -/
def rStatus (rd : Reader) : Word64 := 0#40 ++ faultField rd.fault ++ 0#14 ++ rd.state.code

/-- Register `j` of reader `r`: `R_STATUS`, `R_POS`, `R_LIMIT` for `j` 0, 1, 2; 0 for `j = 3` and for a reader the
block does not have. -/
def readerRegister (s : State) (r j : Nat) : Word64 :=
  match s.reader? r with
  | none => 0
  | some rd =>
    match j with
    | 0 => rStatus rd
    | 1 => rd.pos
    | 2 => rd.limit
    | _ => 0

/-- `RegRead(a)` (R21): every register number has a value; those not in the map read as 0. -/
def regRead (s : State) (a : Nat) : Word64 :=
  match a with
  | 0x00 => wStatus s.writer
  | 0x01 => s.writer.total
  | 0x02 => BitVec.ofNat 64 s.writer.len
  | 0x04 => rbufStatus s.rbuf
  | 0x05 => BitVec.ofNat 64 s.rbuf.len
  | 0x08 => crcStatus s.crc
  | 0x09 => s.crc.result.setWidth 64
  | 0x0A => s.crc.expect.setWidth 64
  | 0x0B => s.faultLog
  | a => if a < 0x10 then 0 else readerRegister s ((a - 0x10) / 4) ((a - 0x10) % 4)

/-! ## Quantities a host derives from the registers (R22) -/

/-- Bits remaining to reader `r`: `R_LIMIT[r] - R_POS[r]`. -/
def bitsRemaining (s : State) (r : Nat) : Int :=
  ((regRead s (0x12 + 4 * r)).toNat : Int) - (regRead s (0x11 + 4 * r)).toNat

/-- The stream is exhausted for a request of `n` bits. -/
def streamExhaustedFor (s : State) (r n : Nat) : Bool := decide (bitsRemaining s r < n)

/-- The padded size in bits of a finished stream, `8 · W_BYTES`. -/
def paddedBits (s : State) : Nat := 8 * (regRead s 0x02).toNat

end Sys2Proof.Machine
end

