-- ==== Sys2Proof/Machine/Port.lean ====
section
/-! DEFINITION. The block's ports: fetching the host's next event and serving it (spec 30_encoding.md R57,
10_state.md R11, R21, 70_reset_and_hazards.md R151). -/

namespace Sys2Proof.Machine

/-- The next port event in the host's order of issue, and the state without it. -/
def State.fetchEvent (s : State) : Option (PortEvent × State) :=
  match s.pending with
  | [] => none
  | e :: rest => some (e, { s with pending := rest })

/-- Put an event before those that wait. -/
def State.issueFirst (s : State) (e : PortEvent) : State := { s with pending := e :: s.pending }

/-- A command: decode, then the command's own meaning; a rejected command is an `IllegalCommand`
(30_encoding.md R57, 60_exceptions.md R136). -/
def runCommand (c : Command) (s : State) : Host.Outcome State Fault Refusal :=
  match decode s.numReaders c.word c.payload with
  | .ok i => exec i s
  | .error _ => .next (s.takeFault .noUnit .illegalCommand)

/-- One port event. A register read changes no state of the block (10_state.md R21). -/
def serveEvent (e : PortEvent) (s : State) : Host.Outcome State Fault Refusal :=
  match e with
  | .command c => runCommand c s
  | .regRead a => .next (s.emit (.regValue a (regRead s a)))
  | .reset => .next s.resetBlock

end Sys2Proof.Machine
end

