-- ==== Sys2Proof/Machine/Step.lean ====
section
/-! DEFINITION. One step of the machine: the host's next port event, or idling (spec 00_scope.md R9, 10_state.md R11,
60_exceptions.md R145). -/

namespace Sys2Proof.Machine

/-- One step: the host's next port event is served whole; with none waiting the block is idle and keeps all state
(60_exceptions.md R145). -/
def step (s : State) : Host.Outcome State Fault Refusal :=
  match s.fetchEvent with
  | none => .next s
  | some (e, s') => serveEvent e s'

/-- `s` with the command of a table word waiting as the host's next command; notes/assumptions/1.md, 12.md. -/
def State.withFetchWord (s : State) (_nbits w : Nat) : State :=
  s.issueFirst (.command (tableCommand s.numReaders w))

end Sys2Proof.Machine
end

