-- ==== Sys2Proof/Machine/Responses.lean ====
section
/-! DEFINITION. The encoding of responses (spec 30_encoding.md R58). -/

namespace Sys2Proof.Machine

/-- A response word `{KIND, 0, CODE, VAL}`. -/
def responseWord (kind : BitVec 4) (code : BitVec 8) (value : Word64) : ResponseWord :=
  kind ++ 0#4 ++ code ++ value

/-- The 80-bit word of a response. -/
def Response.word : Response → ResponseWord
  | .ok v _ => responseWord 0 0 v
  | .warn v => responseWord 1 0 v
  | .fault c => responseWord 2 (BitVec.ofNat 8 c.code) 0

/-- The byte payload of a response. -/
def Response.payload : Response → List Byte
  | .ok _ p => p
  | .warn _ => []
  | .fault _ => []

end Sys2Proof.Machine
end

