-- ==== Sys2Proof/Safety.lean ====
section
/-! DEFINITION. What counts as a legal state and as a safe run, in the terms the statements use
(spec 10_state.md R12 to R20, 70_reset_and_hazards.md R165). -/

namespace Sys2Proof.Machine

/-- The stream relation of an unfinished stream: `W.total = 8·W.len + W.cnt` (10_state.md R14). -/
abbrev Writer.streaming (w : Writer) : Prop := w.total.toNat = 8 * w.len + w.cnt.val

/-- The stream relation of a finished stream: `W.cnt = 0`, `W.len = ceil8(W.total)` (10_state.md R14). -/
abbrev Writer.finished (w : Writer) : Prop := w.cnt = 0 ∧ w.len = ceil8 w.total.toNat

/-- The legal writers (10_state.md R12 to R15). A FAULTED writer keeps the stream it had. -/
abbrev Writer.Inv (c : Config) (w : Writer) : Prop :=
  w.acc.toNat % 2 ^ (8 - w.cnt.val) = 0 ∧
  wbufHolds c (ceil8 w.total.toNat) = true ∧
  (w.state = .closed → w = Writer.reset) ∧
  (w.state = .opened → w.streaming) ∧
  (w.state = .done → w.finished) ∧
  (w.state = .faulted → w.streaming ∨ w.finished) ∧
  (w.fault = none ↔ w.state ≠ .faulted)

/-- The legal reader buffers (10_state.md R16). -/
abbrev ReaderBuffer.Inv (c : Config) (b : ReaderBuffer) : Prop :=
  b.len ≤ c.rbufMaxBytes ∧ (b.loaded = false → b.bytes = [])

/-- The legal readers (10_state.md R17). `pos ≤ limit ≤ 8·RB.len` holds in every state of a reader. -/
abbrev Reader.Inv (b : ReaderBuffer) (rd : Reader) : Prop :=
  rd.pos.toNat ≤ rd.limit.toNat ∧ rd.limit.toNat ≤ bitLength b.bytes ∧
  (rd.state = .opened → b.loaded = true) ∧
  (rd.state = .closed → rd = Reader.reset) ∧
  (rd.fault = none ↔ rd.state ≠ .faulted)

/-- The legal CRC status fields (10_state.md R19). -/
abbrev CrcStatus.Inv (c : CrcStatus) : Prop :=
  c.mismatch = (c.checked && c.result != c.expect) ∧ (c.checked = true → c.valid = true)

/-- Bits 0 and 7..63 of `FAULT_LOG` are 0 (10_state.md R20). -/
abbrev faultLogLegal (l : Word64) : Prop := l &&& 0xFFFFFFFFFFFFFF81#64 = 0

/-- The legal states of the block. -/
abbrev State.Inv (s : State) : Prop :=
  s.cfg.wf ∧ 1 ≤ s.numReaders ∧ s.numReaders ≤ Config.maxNumReaders ∧
  s.writer.Inv s.cfg ∧ s.rbuf.Inv s.cfg ∧ (∀ rd ∈ s.readers, rd.Inv s.rbuf) ∧ s.crc.Inv ∧
  faultLogLegal s.faultLog

/-- No fault has been answered since reset (70_reset_and_hazards.md R165). -/
abbrev State.faultFree (s : State) : Prop := s.faultLog = 0

/-- The step is safe: the machine goes on. -/
abbrev Completes (o : Host.Outcome State Fault Refusal) : Prop := ∃ t, o = .next t

end Sys2Proof.Machine
end

