-- ==== Sys2Proof/Certificates/Slice0/Obligations.lean ====
section
/-! DEFINITION. The statements about the block, one `def Obligations.<Name> : Prop` each, and the vocabulary of the spec
they are written in. -/

namespace Sys2Proof.Spec

open Sys2Proof.Machine

/-! ## Vocabulary: the spec's own words, written without the model's operations -/

/-- The number that a byte string stands for, most significant byte first (20_memory.md, R35). -/
def bytesNat (bs : List Byte) : Nat := bs.foldl (fun acc b => 256 * acc + b.toNat) 0

/-- The `n` bits of `v`, most significant first (40_writer.md, R78). -/
def bitsOf (v n : Nat) : List Bool := (List.range n).map fun i => v.testBit (n - 1 - i)

/-- The number whose `n` bits stand at bit address `k` of a byte string of `8·len` bits (20_memory.md, R33). -/
def fieldAt (bs : List Byte) (k n : Nat) : Nat := bytesNat bs / 2 ^ (8 * bs.length - (k + n)) % 2 ^ n

/-- `floor(a / 2^k) mod 2`, the bit `k` of the bytes `bs` by the formula of 20_memory.md R31. -/
def rbit (bs : List Byte) (k : Nat) : Nat := (bs.getD (k / 8) 0).toNat / 2 ^ (7 - k % 8) % 2

/-- The `c` pending bits of a writer followed by `n` new ones, as a number (20_memory.md, R34: `s`). -/
def pendingThen (w : Writer) (v n : Nat) : Nat := w.acc.toNat / 2 ^ (8 - w.cnt.val) * 2 ^ n + v % 2 ^ n

/-- The writer after `MemWrite(v, n)` in the closed form of 20_memory.md R34: with `q = floor((c + n) / 8)` and
`p = (c + n) mod 8`, the bytes `(s >> (p + 8·(q - 1 - j))) mod 256` are appended and `p` bits stay pending. -/
def written (w : Writer) (v n : Nat) : Writer :=
  let sum := pendingThen w v n
  let q := (w.cnt.val + n) / 8
  let p := (w.cnt.val + n) % 8
  { w with
    bytes := w.bytes ++ (List.range q).map fun j => BitVec.ofNat 8 (sum / 2 ^ (p + 8 * (q - 1 - j)))
    acc := BitVec.ofNat 8 (sum % 2 ^ p * 2 ^ (8 - p))
    cnt := Fin.ofNat 8 p
    total := w.total + BitVec.ofNat 64 n }

/-- The byte string that holds a bit string, first bit most significant, zero-filled at the end
(40_writer.md, R78). -/
def packBits (bits : List Bool) : List Byte :=
  (List.range ((bits.length + 7) / 8)).map fun j =>
    BitVec.ofNat 8 ((List.range 8).foldl (fun acc i => 2 * acc + (bits.getD (8 * j + i) false).toNat) 0)

/-- The bit-serial checksum of 42_crc.md R113: least significant bit of each byte first. -/
def crcSerialBit (crc : CrcWord) (b : Bool) : CrcWord :=
  if crc.getLsbD 0 ^^ b then (crc >>> 1) ^^^ 0xEDB88320 else crc >>> 1

/-- The eight bits of one byte. -/
def crcSerialByte (crc : CrcWord) (b : Byte) : CrcWord :=
  (List.range 8).foldl (fun c i => crcSerialBit c (b.getLsbD i)) crc

/-- `Crc(P)` bit by bit (42_crc.md R113). -/
def crcSerial (payload : List Byte) : CrcWord := payload.foldl crcSerialByte 0xFFFFFFFF ^^^ 0xFFFFFFFF

/-! ## Faults in the words of 60_exceptions.md R134 to R136 -/

/-- Only the log and the response (R135, R136). -/
def bareFault (s : State) (c : FaultCode) : State :=
  { s with faultLog := s.faultLog ||| 1#64 <<< c.code, out := s.out ++ [.response (.fault c)] }

/-- Fault entry of the writer (R134): FAULTED with the first code. -/
def writerFault (s : State) (c : FaultCode) : State :=
  { s with
    faultLog := s.faultLog ||| 1#64 <<< c.code
    writer := if s.writer.state = .faulted then s.writer else { s.writer with state := .faulted, fault := some c }
    out := s.out ++ [.response (.fault c)] }

/-- Fault entry of reader `r` (R134): FAULTED with the first code. -/
def readerFault (s : State) (r : Nat) (c : FaultCode) : State :=
  { s with
    faultLog := s.faultLog ||| 1#64 <<< c.code
    readers := s.readers.modify r fun rd =>
      if rd.state = .faulted then rd else { rd with state := .faulted, fault := some c }
    out := s.out ++ [.response (.fault c)] }

/-- A command ended well: the response `ok(v)` with a payload. -/
def answered (s : State) (v : Word64) (payload : List Byte) : List PortOutput := s.out ++ [.response (.ok v payload)]

/-! ## Decoding in the words of 30_encoding.md R53 to R55, from the opcode table's match and mask -/

/-- Some row of the table has the word's opcode. -/
def opcodeListed (w : CommandWord) : Prop := ∃ row ∈ opcodeTable, row.pattern >>> 76 = w >>> 76

/-- Some row of the table selects the word. -/
def rowSelected (w : CommandWord) : Prop := ∃ row ∈ opcodeTable, row.selects w = true

/-- The word selects a reader command whose reader the block does not have. -/
def readerMissing (numReaders : Nat) (w : CommandWord) : Prop :=
  ∃ row ∈ opcodeTable, row.selects w = true ∧ row.mnemonic ∈ ["ROPEN", "READ", "READS", "SKIP"] ∧
    numReaders ≤ (w >>> 72).toNat % 16

/-- The word selects a command whose payload has the wrong length. -/
def payloadWrong (w : CommandWord) (payload : List Byte) : Prop :=
  ∃ row ∈ opcodeTable, row.selects w = true ∧
    payload.length ≠ if row.mnemonic ∈ ["RLOAD", "CRC32", "CRCCHK"] then (w >>> 32).toNat % 2 ^ 32 else 0

/-- `IllegalCommand` by the four tests of R55. -/
def illegal (numReaders : Nat) (c : Command) : Prop :=
  ¬ opcodeListed c.word ∨ ¬ rowSelected c.word ∨ readerMissing numReaders c.word ∨ payloadWrong c.word c.payload

/-! ## Units (20_memory.md R42) and sequences of commands -/

/-- The piece of state a command addresses. -/
inductive BlockUnit where
  | writer
  | buffer
  | reader (r : BitVec 4)
  | crc
deriving DecidableEq, Repr

/-- The unit of each command (30_encoding.md R53). -/
def unitOf : Instr → BlockUnit
  | .wopen => .writer
  | .write _ _ => .writer
  | .writes _ _ => .writer
  | .pademit => .writer
  | .rload _ => .buffer
  | .ropen r _ => .reader r
  | .read r _ => .reader r
  | .reads r _ => .reader r
  | .skip r _ => .reader r
  | .crc32 _ => .crc
  | .crcchk _ _ => .crc

/-- Two units that share nothing: different, and not the buffer beside a reader (R42). -/
def independent (u v : BlockUnit) : Prop :=
  u ≠ v ∧ (∀ r, ¬ (u = .buffer ∧ v = .reader r)) ∧ (∀ r, ¬ (u = .reader r ∧ v = .buffer))

/-- Commands one after another, each in the state the one before left. -/
def execAll : List Instr → State → Host.Outcome State Fault Refusal
  | [], s => .next s
  | i :: is, s =>
    match exec i s with
    | .next t => execAll is t
    | .fault f => .fault f
    | .refused r => .refused r

/-- A field of a stream: the width and the value of a `WRITE`, or of a `WRITES` where the flag is set. -/
abbrev Field := Bool × BitVec 8 × Word64

/-- The command that writes a field. -/
def Field.write (f : Field) : Instr := if f.1 then .writes f.2.1 f.2.2 else .write f.2.1 f.2.2

/-- The bits of a field, `low(V, N)` with exactly `N` bits. -/
def Field.bits (f : Field) : List Bool := bitsOf f.2.2.toNat f.2.1.toNat

/-- The number of bits of a list of fields. -/
def streamLength (fs : List Field) : Nat := (fs.map fun f => f.2.1.toNat).sum

/-- The bit string of a list of fields. -/
def streamBits (fs : List Field) : List Bool := fs.flatMap Field.bits

/-- Every width of the list is legal. -/
def legalFields (fs : List Field) : Prop := ∀ f ∈ fs, 1 ≤ f.2.1.toNat ∧ f.2.1.toNat ≤ 64

/-! ## The rules of the commands, for the statements to instantiate -/

/-- A byte count is within `WBUF_MAX_BYTES` (00_scope.md R5). -/
def fitsBuffer (c : Config) (bytes : Nat) : Prop := ∀ m, c.wbufMaxBytes = some m → bytes ≤ m

/-- The pending bits are left-justified: `W.acc mod 2^(8 - W.cnt) = 0` (10_state.md R13). -/
def leftJustified (w : Writer) : Prop := w.acc.toNat % 2 ^ (8 - w.cnt.val) = 0

/-- The conditions under which a write of `n` bits passes the three checks of 40_writer.md R71. -/
def writeLegal (s : State) (n : Nat) : Prop :=
  s.writer.state = .opened ∧ 1 ≤ n ∧ n ≤ 64 ∧ s.writer.total.toNat + n < 2 ^ 64 ∧
    fitsBuffer s.cfg ((s.writer.total.toNat + n + 7) / 8)

/-- The rule of `WRITE` and `WRITES` (40_writer.md R71, R72): command `i` of width `n` appends the low `n` bits of `v`,
or faults by the first check that fails and appends nothing. -/
def writeRule (i : Instr) (n v : Nat) (s : State) : Prop :=
  (writeLegal s n →
    exec i s = .next { s with writer := written s.writer v n, out := answered s 0 [] } ∧
    (written s.writer v n).total.toNat = s.writer.total.toNat + n ∧
    (written s.writer v n).bytes.length = s.writer.bytes.length + (s.writer.cnt.val + n) / 8 ∧
    (written s.writer v n).cnt.val = (s.writer.cnt.val + n) % 8) ∧
  (s.writer.state ≠ .opened → exec i s = .next (writerFault s .badState)) ∧
  (s.writer.state = .opened → n < 1 ∨ 64 < n → exec i s = .next (writerFault s .illegalWidth)) ∧
  (s.writer.state = .opened → 1 ≤ n → n ≤ 64 →
    2 ^ 64 ≤ s.writer.total.toNat + n ∨ ¬ fitsBuffer s.cfg ((s.writer.total.toNat + n + 7) / 8) →
    exec i s = .next (writerFault s .writerOverflow))

/-- The rule of `READ` and `READS` (41_reader.md R94, R97): command `i` of width `n` on reader `r` answers `value` and
moves the cursor by `n`, or faults by the first check that fails and consumes nothing. -/
def readRule (i : Instr) (r n : Nat) (value : Word64) (s : State) (rd : Reader) : Prop :=
  (rd.state = .opened → 1 ≤ n → n ≤ 64 → rd.pos.toNat + n ≤ rd.limit.toNat →
    exec i s = .next { s with
      readers := s.readers.set r { rd with pos := rd.pos + BitVec.ofNat 64 n }
      out := answered s value [] } ∧
    (rd.pos + BitVec.ofNat 64 n).toNat = rd.pos.toNat + n) ∧
  (rd.state ≠ .opened → exec i s = .next (readerFault s r .badState)) ∧
  (rd.state = .opened → n < 1 ∨ 64 < n → exec i s = .next (readerFault s r .illegalWidth)) ∧
  (rd.state = .opened → 1 ≤ n → n ≤ 64 → rd.limit.toNat < rd.pos.toNat + n →
    exec i s = .next (readerFault s r .streamExhausted))

/-- The value of `READS` (00_scope.md R7): `v` if bit `n - 1` is 0, else `v - 2^n`. -/
def signedField (n v : Nat) : Int := if v < 2 ^ (n - 1) then v else (v : Int) - 2 ^ n

/-- `v` is the value of register `a` in the map of 10_state.md R21. -/
def registerValue (s : State) (a : Nat) (v : Word64) : Prop :=
  (a = 0x00 → v.extractLsb' 0 2 = s.writer.state.code ∧ (v.extractLsb' 2 3).toNat = s.writer.cnt.val ∧
    v.extractLsb' 5 3 = 0 ∧ v.extractLsb' 8 8 = s.writer.acc ∧ v.extractLsb' 16 8 = faultField s.writer.fault ∧
    v.extractLsb' 24 40 = 0) ∧
  (a = 0x01 → v = s.writer.total) ∧
  (a = 0x02 → v = BitVec.ofNat 64 s.writer.bytes.length) ∧
  (a = 0x04 → v.toNat = s.rbuf.loaded.toNat) ∧
  (a = 0x05 → v = BitVec.ofNat 64 s.rbuf.bytes.length) ∧
  (a = 0x08 → v.toNat = s.crc.valid.toNat + 2 * s.crc.checked.toNat + 4 * s.crc.mismatch.toNat) ∧
  (a = 0x09 → v.toNat = s.crc.result.toNat) ∧
  (a = 0x0A → v.toNat = s.crc.expect.toNat) ∧
  (a = 0x0B → v = s.faultLog) ∧
  (∀ r rd, s.readers[r]? = some rd →
    (a = 0x10 + 4 * r → v.extractLsb' 0 2 = rd.state.code ∧ v.extractLsb' 2 14 = 0 ∧
      v.extractLsb' 16 8 = faultField rd.fault ∧ v.extractLsb' 24 40 = 0) ∧
    (a = 0x11 + 4 * r → v = rd.pos) ∧ (a = 0x12 + 4 * r → v = rd.limit)) ∧
  (a ∈ [0x03, 0x06, 0x07, 0x0C, 0x0D, 0x0E, 0x0F] → v = 0) ∧
  (∀ r, a = 0x13 + 4 * r → v = 0) ∧
  (∀ r j, s.readers.length ≤ r → j < 3 → a = 0x10 + 4 * r + j → v = 0)

end Sys2Proof.Spec

open Sys2Proof Sys2Proof.Machine Sys2Proof.Spec

/-! ## Decoding and encoding -/

/-- Decoding an encoded command gives it back, for every well-formed command with every operand (30_encoding.md,
sections 1 to 3). -/
def Obligations.DecodeOfEncodeIsTheCommand : Prop :=
  ∀ (numReaders : Nat) (i : Instr), WellFormed numReaders i = true →
    decode numReaders (encode i).word (encode i).payload = .ok i

/-- Encoding a decoded command gives back its word and payload bit for bit: no field is ignored (30_encoding.md,
sections 1 to 4). -/
def Obligations.EncodeOfDecodeIsTheWord : Prop :=
  ∀ (numReaders : Nat) (w : CommandWord) (payload : List Byte) (i : Instr),
    decode numReaders w payload = .ok i → encode i = ⟨w, payload⟩ ∧ WellFormed numReaders i = true

/-- 30_encoding.md R55 and 60_exceptions.md R136, from the match and mask of the opcode table: exactly the commands that
fail one of the tests (a) to (d) are illegal, each by the first test that fails, with no effect but the log and the
response; every other command selects one row and runs as that row's command. The all-zero and all-ones words are
illegal. -/
def Obligations.IllegalCommandsAreExactlyTheTableMisfits : Prop :=
  ∀ (s : State) (c : Command),
    (¬ opcodeListed c.word → decode s.numReaders c.word c.payload = .error .reservedOpcode) ∧
    (opcodeListed c.word → ¬ rowSelected c.word →
      decode s.numReaders c.word c.payload = .error .reservedField) ∧
    (readerMissing s.numReaders c.word → decode s.numReaders c.word c.payload = .error .readerNumber) ∧
    (¬ readerMissing s.numReaders c.word → payloadWrong c.word c.payload →
      decode s.numReaders c.word c.payload = .error .payloadLength) ∧
    (illegal s.numReaders c → runCommand c s = .next (bareFault s .illegalCommand)) ∧
    (¬ illegal s.numReaders c → ∃ i row, row ∈ opcodeTable ∧ row.selects c.word = true ∧
      (∀ other ∈ opcodeTable, other.selects c.word = true → other = row) ∧ row.mnemonic = i.mnemonic ∧
      decode s.numReaders c.word c.payload = .ok i ∧ runCommand c s = exec i s) ∧
    illegal s.numReaders ⟨0, c.payload⟩ ∧ illegal s.numReaders ⟨BitVec.allOnes 80, c.payload⟩

/-- Words written out in 95_test_vectors.md decode to the commands beside them. -/
def Obligations.SampleWordsDecode : Prop :=
  decode 2 0x10000000000000000000 [] = .ok .wopen ∧
  decode 2 0x202100000001FFFFFFFF [] = .ok (.write 33 0x1FFFFFFFF) ∧
  decode 2 0x3004FFFFFFFFFFFFFFFD [] = .ok (.writes 4 0xFFFFFFFFFFFFFFFD) ∧
  decode 2 0x40000000000000000000 [] = .ok .pademit ∧
  decode 2 0x80000000000100000000 [0xAB] = .ok (.rload [0xAB]) ∧
  decode 2 0x910000000000000001C6 [] = .ok (.ropen 1 454) ∧
  decode 2 0xA10B0000000000000000 [] = .ok (.read 1 11) ∧
  decode 2 0xB00C0000000000000000 [] = .ok (.reads 0 12) ∧
  decode 2 0xC1000000000000000152 [] = .ok (.skip 1 338) ∧
  decode 2 0xD0000000000100000000 [0x61] = .ok (.crc32 [0x61]) ∧
  decode 2 0xE00000000001A8780BBE [0x61] = .ok (.crcchk 0xA8780BBE [0x61]) ∧
  decode 2 0x92000000000000000008 [] = .error .readerNumber ∧
  decode 2 0xD0000000000200000000 [0x61] = .error .payloadLength

/-- The fields of a response word (30_encoding.md R58): `KIND`, a zero nibble, `CODE`, `VAL`, and the payload. -/
def Obligations.ResponseWordFields : Prop :=
  ∀ r : Response, r.word.extractLsb' 72 4 = 0 ∧
    (∀ v p, r = .ok v p → (r.word.extractLsb' 76 4, r.word.extractLsb' 64 8, r.word.extractLsb' 0 64, r.payload) =
      (0, 0, v, p)) ∧
    (∀ v, r = .warn v → (r.word.extractLsb' 76 4, r.word.extractLsb' 64 8, r.word.extractLsb' 0 64, r.payload) =
      (1, 0, v, [])) ∧
    (∀ c, r = .fault c → (r.word.extractLsb' 76 4, (r.word.extractLsb' 64 8).toNat, r.word.extractLsb' 0 64,
      r.payload) = (2, c.code, 0, []))

/-- A response word with its payload tells every response from every other: the fault, the warning and the success
are distinct outcomes (30_encoding.md, section 6). -/
def Obligations.ResponseWordsTellResponsesApart : Prop :=
  ∀ r q : Response, r.word = q.word → r.payload = q.payload → r = q

/-! ## Reset, the ports and the step -/

/-- The reset values of 10_state.md R23. -/
def Obligations.ResetHasTheTabledValues : Prop :=
  State.reset.writer = ⟨.closed, [], 0, 0, 0, none⟩ ∧ State.reset.writer.len = 0 ∧
  State.reset.rbuf = ⟨[], false⟩ ∧ State.reset.rbuf.len = 0 ∧
  (∀ rd ∈ State.reset.readers, rd = ⟨.closed, 0, 0, none⟩) ∧
  State.reset.crc = ⟨false, 0x00000000, false, 0x00000000, false⟩ ∧ State.reset.faultLog = 0

/-- The invariant of 10_state.md R12 to R20 holds after reset. -/
def Obligations.ResetMeetsTheInvariant : Prop := State.reset.Inv

/-- 70_reset_and_hazards.md R150: in every state a reset puts every element at its reset value, and it is the only
event that clears a bit of `FAULT_LOG`. -/
def Obligations.ResetPutsEveryElementAtItsResetValue : Prop :=
  (∀ (s : State) (rest : List PortEvent), s.pending = .reset :: rest →
    ∃ t, step s = .next t ∧ t.writer = ⟨.closed, [], 0, 0, 0, none⟩ ∧ t.rbuf = ⟨[], false⟩ ∧
      t.readers.length = s.readers.length ∧ (∀ rd ∈ t.readers, rd = ⟨.closed, 0, 0, none⟩) ∧
      t.crc = ⟨false, 0, false, 0, false⟩ ∧ t.faultLog = 0) ∧
  (∀ s t : State, step s = .next t →
    (∃ rest, s.pending = .reset :: rest) ∨ s.faultLog &&& t.faultLog = s.faultLog)

/-- A step serves the host's next command: if it decodes to `i`, the step is `exec i` on the state without that
command; if it is rejected, the step answers `IllegalCommand` (30_encoding.md, section 5). -/
def Obligations.StepRunsTheDecodedCommand : Prop :=
  ∀ (s : State) (c : Command) (rest : List PortEvent), s.pending = .command c :: rest →
    (∀ i, decode s.numReaders c.word c.payload = .ok i → step s = exec i { s with pending := rest }) ∧
    (∀ e, decode s.numReaders c.word c.payload = .error e →
      step s = .next (bareFault { s with pending := rest } .illegalCommand))

/-- 10_state.md R21: a register read is legal in every state, returns the value of the map, and changes no state;
unlisted numbers read as 0. -/
def Obligations.RegisterReadsFollowTheMap : Prop :=
  ∀ (s : State) (a : Nat) (rest : List PortEvent), s.pending = .regRead a :: rest →
    ∃ v, step s = .next { s with pending := rest, out := s.out ++ [.regValue a v] } ∧ registerValue s a v

/-- With nothing issued the block is idle and keeps all state (60_exceptions.md R145; notes/assumptions/11.md). -/
def Obligations.IdleBlockKeepsAllState : Prop := ∀ s : State, s.pending = [] → step s = .next s

/-- Every step keeps the invariant of 10_state.md R12 to R20: left-justified pending bits, the stream relation,
capacities, `pos ≤ limit ≤ 8·RB.len`, recorded faults exactly in FAULTED units, the mismatch flag, the reserved bits of
`FAULT_LOG`. -/
def Obligations.StepKeepsTheInvariant : Prop :=
  ∀ s t : State, s.Inv → step s = .next t → t.Inv

/-- From every legal state every event is served and the machine goes on (60_exceptions.md R131), since no rule
evaluates `RBit` past the buffer's end (20_memory.md R40); and no command is refused in any state. For a reader that
the block lacks, that `exec` goes on is the model's choice (notes/assumptions/6.md). -/
def Obligations.LegalStatesNeverStop : Prop :=
  (∀ s : State, s.Inv → (∃ t, step s = .next t) ∧ ∀ i : Instr, ∃ t, exec i s = .next t) ∧
  (∀ (i : Instr) (s : State) (r : Refusal), exec i s ≠ .refused r)

/-- Every command produces exactly one response (30_encoding.md, section 6), `warn` is produced only by `CRCCHK`, only
`PADEMIT` responds with bytes, and no command changes the parameters or what waits at the port. -/
def Obligations.EveryCommandAnswersOnce : Prop :=
  ∀ (i : Instr) (s t : State), exec i s = .next t →
    ∃ r, t.out = s.out ++ [.response r] ∧ (∀ v, r = .warn v → ∃ x p, i = .crcchk x p) ∧
      (∀ v p, r = .ok v p → p ≠ [] → i = .pademit) ∧
      t.cfg = s.cfg ∧ t.pending = s.pending ∧ t.readers.length = s.readers.length

/-- 10_state.md R20, over whole runs: after a reset, with no further reset, bit `c` of `FAULT_LOG` is 1 iff a command
has answered `fault(c)` since; bits 0 and 7..63 are 0; no command clears a bit. -/
def Obligations.FaultLogRecordsTheFaultsSinceReset : Prop :=
  (∀ (s t : State) (steps : Nat), (∀ e ∈ s.pending, e ≠ .reset) →
    Host.Core.run Sys2Proof.core steps s.resetBlock = .next t →
    (∀ c : FaultCode, t.faultLog.getLsbD c.code = true ↔
      PortOutput.response (.fault c) ∈ t.out.drop s.out.length) ∧
    (∀ j, j = 0 ∨ 7 ≤ j → t.faultLog.getLsbD j = false)) ∧
  (∀ (i : Instr) (s t : State), exec i s = .next t → s.faultLog &&& t.faultLog = s.faultLog)

/-! ## The writer -/

/-- What `AppendBit` does (20_memory.md, section 1): the bit stands at bit address `W.total` of `W.bytes ++ [W.acc]`,
every earlier bit stays, and the invariants of 10_state.md R13 and R14 are kept. -/
def Obligations.AppendBitPlacesTheBitAtTotal : Prop :=
  ∀ (w : Writer) (b : Bool), leftJustified w → w.total.toNat = 8 * w.bytes.length + w.cnt.val →
    w.total.toNat + 1 < 2 ^ 64 →
    bitAt (w.appendBit b).image w.total.toNat = some b ∧
    (∀ k < w.total.toNat, bitAt (w.appendBit b).image k = bitAt w.image k) ∧
    (w.appendBit b).total.toNat = w.total.toNat + 1 ∧ leftJustified (w.appendBit b) ∧
    (w.appendBit b).total.toNat = 8 * (w.appendBit b).bytes.length + (w.appendBit b).cnt.val ∧
    (w.appendBit b).state = w.state ∧ (w.appendBit b).fault = w.fault

/-- The bit-by-bit `MemWrite` equals its closed form, and ignores the bits of `v` at positions `n` and above
(20_memory.md, section 1, the closed form that the spec derives there). -/
def Obligations.MemWriteEqualsItsClosedForm : Prop :=
  ∀ (w : Writer) (v n : Nat), leftJustified w → 1 ≤ n → n ≤ 64 →
    w.memWrite v n = written w v n ∧ w.memWrite (v % 2 ^ n) n = w.memWrite v n

/-- Mixed widths (20_memory.md, section 1): two writes are the write of the concatenation, and a read is the
concatenation of the reads of its parts, so the wide-write split is not observable. -/
def Obligations.FieldsMayBeCutAnywhere : Prop :=
  (∀ (w : Writer) (a m b n : Nat),
    (w.memWrite a m).memWrite b n = w.memWrite (a % 2 ^ m * 2 ^ n + b % 2 ^ n) (m + n)) ∧
  (∀ (bs : List Byte) (k m n : Nat),
    memRead bs k (m + n) = (memRead bs k m).bind fun hi => (memRead bs (k + m) n).map fun lo => hi * 2 ^ n + lo)

/-- `WOPEN` (40_writer.md R70): from every state an empty OPEN stream, nothing else changed. -/
def Obligations.WopenCreatesAnEmptyStream : Prop :=
  ∀ s : State, ∃ t, exec .wopen s = .next t ∧
    t = { s with writer := ⟨.opened, [], 0, 0, 0, none⟩, out := answered s 0 [] } ∧
    regRead t 0x00 = 0x000001 ∧ regRead t 0x01 = 0 ∧ regRead t 0x02 = 0

/-- `WRITE` (40_writer.md R71, R72): the new writer, and each fault in the order of the checks. -/
def Obligations.WriteAppendsTheLowBits : Prop :=
  ∀ (s : State) (n : BitVec 8) (v : Word64), leftJustified s.writer →
    writeRule (.write n v) n.toNat v.toNat s

/-- `WRITES` (40_writer.md, sections 2 and 4): `s mod 2^N` is appended for every signed operand, with no range check.
The other two clauses are the spec's own derivations: given the same fields it is `WRITE` (section 4, from the rule of
`WRITE`), and an operand that does not fit is not the value that `READS` makes of its bits (41_reader.md, section 4). -/
def Obligations.WritesAppendsTheTwosComplement : Prop :=
  (∀ (s : State) (n : BitVec 8) (x : Int), leftJustified s.writer → -2 ^ 63 ≤ x → x < 2 ^ 63 →
    writeRule (.writes n (BitVec.ofInt 64 x)) n.toNat (x % 2 ^ n.toNat).toNat s) ∧
  (∀ (s : State) (n : BitVec 8) (v : Word64), exec (.writes n v) s = exec (.write n v) s) ∧
  (∀ (n : Nat) (x : Int), 1 ≤ n → x < -2 ^ (n - 1) ∨ 2 ^ (n - 1) ≤ x → signedField n (x % 2 ^ n).toNat ≠ x)

/-- `PADEMIT` (40_writer.md R76): the response carries the pre-padding count and the `ceil8` bytes, the pad bits are
zero and end the last byte, `W.total` stays; a writer that is not OPEN answers `BadState`. -/
def Obligations.PademitEmitsTheStream : Prop :=
  ∀ s : State, s.writer.Inv s.cfg →
    (s.writer.state = .opened → ∃ bytes,
      exec .pademit s = .next { s with
        writer := { s.writer with state := .done, bytes := bytes, acc := 0, cnt := 0 }
        out := answered s s.writer.total bytes } ∧
      bytes = s.writer.bytes ++ (if s.writer.cnt = 0 then [] else [s.writer.acc]) ∧
      bytes.length = (s.writer.total.toNat + 7) / 8 ∧ 8 * bytes.length - s.writer.total.toNat ≤ 7 ∧
      ∀ k, s.writer.total.toNat ≤ k → k < 8 * bytes.length → bitAt bytes k = some false) ∧
    (s.writer.state ≠ .opened → exec .pademit s = .next (writerFault s .badState))

/-- The frame of a write, bit by bit (20_memory.md, section 1; 43_laws.md, section 3): the `n` bits stand at bit
address `W.total` on, most significant first, and nothing after them: the count grows by `n`, the committed bytes are
the whole bytes of that count, every bit past the field is 0; every bit and byte stored before, the reader buffer, the
readers, the CRC unit and the log stay. -/
def Obligations.WritesStoreAtTheAppendPosition : Prop :=
  ∀ (s t : State) (i : Instr) (n : BitVec 8) (v : Word64), i = .write n v ∨ i = .writes n v →
    leftJustified s.writer → s.writer.total.toNat = 8 * s.writer.bytes.length + s.writer.cnt.val →
    writeLegal s n.toNat → exec i s = .next t →
    (∀ j < n.toNat, bitAt t.writer.image (s.writer.total.toNat + j) = some (v.getLsbD (n.toNat - 1 - j))) ∧
    (∀ k < s.writer.total.toNat, bitAt t.writer.image k = bitAt s.writer.image k) ∧
    t.writer.total.toNat = s.writer.total.toNat + n.toNat ∧
    t.writer.bytes.length = (s.writer.total.toNat + n.toNat) / 8 ∧
    (∀ k, s.writer.total.toNat + n.toNat ≤ k → k < 8 * t.writer.image.length →
      bitAt t.writer.image k = some false) ∧
    (∀ a < s.writer.bytes.length, byteAt t.writer.bytes a = byteAt s.writer.bytes a) ∧
    (∀ a, byteAt t.rbuf.bytes a = byteAt s.rbuf.bytes a) ∧
    t.writer.state = .opened ∧ t.writer.fault = s.writer.fault ∧ t.rbuf.loaded = s.rbuf.loaded ∧
    t.readers = s.readers ∧ t.crc = s.crc ∧ t.faultLog = s.faultLog

/-- No command changes or removes a committed byte except `WOPEN` (10_state.md, section 2). -/
def Obligations.CommittedBytesStayUntilWopen : Prop :=
  ∀ (i : Instr) (s t : State), exec i s = .next t → i ≠ .wopen →
    ∃ more, t.writer.bytes = s.writer.bytes ++ more

/-- The emitted-stream law (40_writer.md, section 6), for every list of writes: `PADEMIT` answers the number of bits and
the bit string cut into bytes. -/
def Obligations.EmittedStreamIsTheConcatenation : Prop :=
  ∀ (fs : List Field) (s : State), legalFields fs → streamLength fs < 2 ^ 64 →
    fitsBuffer s.cfg ((streamLength fs + 7) / 8) →
    ∃ t, execAll ([.wopen] ++ fs.map Field.write ++ [.pademit]) s = .next t ∧
      t.out = s.out ++ List.replicate (fs.length + 1) (.response (.ok 0 [])) ++
        [.response (.ok (BitVec.ofNat 64 (streamLength fs)) (packBits (streamBits fs)))] ∧
      t.writer.state = .done ∧ t.writer.total.toNat = streamLength fs

/-! ## The reader buffer and the readers -/

/-- `RLOAD` (41_reader.md R90, 60_exceptions.md R135): the buffer replaced and every reader closed, or `BadLimit` with
nothing changed but the log. -/
def Obligations.RloadReplacesTheBuffer : Prop :=
  ∀ (s : State) (payload : List Byte),
    (payload.length ≤ s.cfg.rbufMaxBytes →
      exec (.rload payload) s = .next { s with
        rbuf := ⟨payload, true⟩
        readers := List.replicate s.readers.length ⟨.closed, 0, 0, none⟩
        out := answered s 0 [] }) ∧
    (s.cfg.rbufMaxBytes < payload.length → exec (.rload payload) s = .next (bareFault s .badLimit))

/-- `ROPEN` (41_reader.md R92): the reader constructed at bit 0 from any state of it, `BadState` with no buffer loaded,
`BadLimit` beyond the buffer. -/
def Obligations.RopenConstructsTheReader : Prop :=
  ∀ (s : State) (r : BitVec 4) (limit : Word64) (rd : Reader), s.readers[r.toNat]? = some rd →
    (s.rbuf.loaded = true → limit.toNat ≤ 8 * s.rbuf.bytes.length →
      exec (.ropen r limit) s = .next { s with
        readers := s.readers.set r.toNat ⟨.opened, 0, limit, none⟩
        out := answered s 0 [] }) ∧
    (s.rbuf.loaded = false → exec (.ropen r limit) s = .next (readerFault s r.toNat .badState)) ∧
    (s.rbuf.loaded = true → 8 * s.rbuf.bytes.length < limit.toNat →
      exec (.ropen r limit) s = .next (readerFault s r.toNat .badLimit))

/-- The form that no decoded command has: a reader number the block does not have. The meaning answers
`IllegalCommand`, as the decoder does (the model's choice, notes/assumptions/6.md). -/
def Obligations.MissingReadersAreIllegal : Prop :=
  ∀ (s : State) (r : BitVec 4) (v : Word64) (n : BitVec 8), s.readers.length ≤ r.toNat →
    ∀ i ∈ [Instr.ropen r v, .read r n, .reads r n, .skip r v],
      exec i s = .next (bareFault s .illegalCommand)

/-- `READ` (41_reader.md R94): the `N` bits at the cursor, first bit most significant, zero-extended; the cursor moves;
each fault in the order of the checks, nothing consumed. -/
def Obligations.ReadReturnsTheFieldAtTheCursor : Prop :=
  ∀ (s : State) (r : BitVec 4) (n : BitVec 8) (rd : Reader), s.readers[r.toNat]? = some rd →
    rd.limit.toNat ≤ 8 * s.rbuf.bytes.length →
    readRule (.read r n) r.toNat n.toNat (BitVec.ofNat 64 (fieldAt s.rbuf.bytes rd.pos.toNat n.toNat)) s rd ∧
    fieldAt s.rbuf.bytes rd.pos.toNat n.toNat < 2 ^ n.toNat

/-- `READS` (41_reader.md R97): the same bits sign-extended from bit `N - 1`; the result lies in
`-2^(N-1) .. 2^(N-1) - 1`. -/
def Obligations.ReadsReturnsTheSignedField : Prop :=
  ∀ (s : State) (r : BitVec 4) (n : BitVec 8) (rd : Reader), s.readers[r.toNat]? = some rd →
    rd.limit.toNat ≤ 8 * s.rbuf.bytes.length →
    readRule (.reads r n) r.toNat n.toNat
      (BitVec.ofInt 64 (signedField n.toNat (fieldAt s.rbuf.bytes rd.pos.toNat n.toNat))) s rd ∧
    (1 ≤ n.toNat → -2 ^ (n.toNat - 1) ≤ signedField n.toNat (fieldAt s.rbuf.bytes rd.pos.toNat n.toNat) ∧
      signedField n.toNat (fieldAt s.rbuf.bytes rd.pos.toNat n.toNat) < 2 ^ (n.toNat - 1))

/-- `SKIP` (41_reader.md R99): the cursor moves forward by `V`, compared on unbounded integers; beyond the limit it
faults at the skip and nothing moves. -/
def Obligations.SkipMovesTheCursorForward : Prop :=
  ∀ (s : State) (r : BitVec 4) (count : Word64) (rd : Reader), s.readers[r.toNat]? = some rd →
    (rd.state = .opened → rd.pos.toNat + count.toNat ≤ rd.limit.toNat →
      exec (.skip r count) s = .next { s with
        readers := s.readers.set r.toNat { rd with pos := rd.pos + count }
        out := answered s 0 [] } ∧
      (rd.pos + count).toNat = rd.pos.toNat + count.toNat) ∧
    (rd.state ≠ .opened → exec (.skip r count) s = .next (readerFault s r.toNat .badState)) ∧
    (rd.state = .opened → rd.limit.toNat < rd.pos.toNat + count.toNat →
      exec (.skip r count) s = .next (readerFault s r.toNat .streamExhausted))

/-- What `MemRead` is (20_memory.md, section 1): the number whose bits, most significant first, are `RBit(k)` to
`RBit(k + n - 1)`. The last clause, that it has no value where a bit lies past the buffer's end, is the model's choice
(notes/assumptions/5.md): the spec calls such a bit undefined and never evaluates it. -/
def Obligations.MemReadIsTheBitsMsbFirst : Prop :=
  ∀ (bs : List Byte) (k n : Nat), 1 ≤ n →
    (k + n ≤ 8 * bs.length → ∃ v, memRead bs k n = some v ∧ v = fieldAt bs k n ∧ v < 2 ^ n ∧
      ∀ i < n, (v.testBit (n - 1 - i)).toNat = rbit bs (k + i)) ∧
    (8 * bs.length < k + n → memRead bs k n = none)

/-- Skips compose (41_reader.md, section 5): two skips leave the reader where the one skip of the sum does. -/
def Obligations.SkipsCompose : Prop :=
  ∀ (s : State) (r : BitVec 4) (a b : Word64) (rd : Reader), s.readers[r.toNat]? = some rd →
    rd.state = .opened → rd.pos.toNat + a.toNat + b.toNat ≤ rd.limit.toNat →
    ∃ s₁ s₂ t, exec (.skip r a) s = .next s₁ ∧ exec (.skip r b) s₁ = .next s₂ ∧
      exec (.skip r (a + b)) s = .next t ∧ { s₂ with out := t.out } = t

/-- `READ` and `READS` of one width at one position consume the same bits and agree in the low `N` bits
(41_reader.md, section 4). -/
def Obligations.ReadAndReadsAgree : Prop :=
  ∀ (s t u : State) (r : BitVec 4) (n : BitVec 8) (a b : Word64),
    exec (.read r n) s = .next t → exec (.reads r n) s = .next u →
    t.out = answered s a [] → u.out = answered s b [] →
    { t with out := u.out } = u ∧ ∀ j < n.toNat, a.getLsbD j = b.getLsbD j

/-- The signed pair (43_laws.md, section 1; 41_reader.md, section 4): a field written by `WRITES x, n` reads back by
`READS n` as the one value congruent to `x` modulo `2^n` in the signed range, which is `x` iff `x` fits. -/
def Obligations.SignedFieldsReadBackModuloTheWidth : Prop :=
  ∀ (w : Writer) (x : Int) (n : Nat), leftJustified w → w.total.toNat = 8 * w.bytes.length + w.cnt.val →
    w.total.toNat + n < 2 ^ 64 → 1 ≤ n → n ≤ 64 → -2 ^ 63 ≤ x → x < 2 ^ 63 →
    ∃ v, memRead ((w.memWrite (u64 x).toNat n).pad.bytes) w.total.toNat n = some v ∧ (v : Int) = x % 2 ^ n ∧
      (sext n v - x) % 2 ^ n = 0 ∧ -2 ^ (n - 1) ≤ sext n v ∧ sext n v < 2 ^ (n - 1) ∧
      (sext n v = x ↔ -2 ^ (n - 1) ≤ x ∧ x < 2 ^ (n - 1))

/-- The read-back law (41_reader.md, section 6): a reader over the bytes of a stream returns its fields one after
another and ends at the bit count; with that count as limit the next read is exhausted. -/
def Obligations.ReadersReturnTheWrittenFields : Prop :=
  ∀ (fs : List Field) (s : State) (r : BitVec 4) (limit : Word64), legalFields fs → r.toNat < s.readers.length →
    (packBits (streamBits fs)).length ≤ s.cfg.rbufMaxBytes → streamLength fs ≤ limit.toNat →
    limit.toNat ≤ 8 * (packBits (streamBits fs)).length →
    ∃ t, execAll ([.rload (packBits (streamBits fs)), .ropen r limit] ++ fs.map fun f => .read r f.2.1) s = .next t ∧
      t.out = s.out ++ [.response (.ok 0 []), .response (.ok 0 [])] ++
        fs.map (fun f => .response (.ok (BitVec.ofNat 64 (f.2.2.toNat % 2 ^ f.2.1.toNat)) [])) ∧
      (∃ rd, t.readers[r.toNat]? = some rd ∧ rd.state = .opened ∧ rd.limit = limit ∧
        rd.pos.toNat = streamLength fs) ∧
      (limit.toNat = streamLength fs → ∀ n : BitVec 8, 1 ≤ n.toNat → n.toNat ≤ 64 →
        exec (.read r n) t = .next (readerFault t r.toNat .streamExhausted))

/-! ## The CRC unit -/

/-- `CRC32` (42_crc.md, section 3): the checksum, here in the bit-serial form, answered and recorded; `C.expect` is left
unchanged. The algorithm itself is the spec's general knowledge (93_implementation_defined.md G1 to G3). -/
def Obligations.CrcCommandReportsTheChecksum : Prop :=
  ∀ (s : State) (payload : List Byte),
    exec (.crc32 payload) s = .next { s with
      crc := ⟨true, crcSerial payload, false, s.crc.expect, false⟩
      out := answered s ((crcSerial payload).setWidth 64) [] }

/-- `CRCCHK` (42_crc.md, section 4): the checksum compared with the expected value; a mismatch is a warning, which sets
no bit of `FAULT_LOG` and touches no other unit. -/
def Obligations.CrcCheckWarnsAndNeverFaults : Prop :=
  ∀ (s : State) (expected : CrcWord) (payload : List Byte),
    exec (.crcchk expected payload) s = .next { s with
      crc := ⟨true, crcSerial payload, true, expected, decide (crcSerial payload ≠ expected)⟩
      out := s.out ++ [.response (if crcSerial payload = expected then .ok ((crcSerial payload).setWidth 64) []
        else .warn ((crcSerial payload).setWidth 64))] }

/-- The table-driven checksum equals the bit-serial one on every byte string, byte by byte (42_crc.md, section 2, the
equality that the spec states from general knowledge); the polynomial is the reversal of 0x04C11DB7. -/
def Obligations.TableChecksumEqualsBitSerial : Prop :=
  (∀ (crc : CrcWord) (b : Byte), crcUpdate crc b = crcSerialByte crc b) ∧
  (∀ payload : List Byte, crcOf payload = crcSerial payload) ∧ crcPoly.reverse = 0x04C11DB7

/-- Entries of the table and checksums that 42_crc.md and 95_test_vectors.md print. They rest on the recurrence, the
update and the check value that the spec gives from general knowledge (93_implementation_defined.md G1, G2, G4;
notes/assumptions/8.md). -/
def Obligations.ChecksumLandmarks : Prop :=
  crcTable 0 = 0 ∧ crcTable 1 = 0x77073096 ∧ crcTable 128 = 0xEDB88320 ∧ crcTable 255 = 0x2D02EF8D ∧
  crcOf [] = 0 ∧ crcOf [0x31, 0x32, 0x33, 0x34, 0x35, 0x36, 0x37, 0x38, 0x39] = 0xCBF43926

/-- 42_crc.md R118: no outcome of a CRC command changes the behaviour of any other command. Whatever the CRC unit
holds, every command answers the same and leaves the same state outside that unit; a command of another unit leaves the
CRC unit as it found it, and a CRC command leaves the same outcome there (`C.expect` apart, which `CRC32` keeps). -/
def Obligations.ChecksumOutcomesAreAdvisory : Prop :=
  ∀ (i : Instr) (s : State) (c : CrcStatus),
    (∀ t, exec i s = .next t → ∃ u, exec i { s with crc := c } = .next u ∧ { u with crc := t.crc } = t ∧
      (unitOf i ≠ .crc → t.crc = s.crc ∧ u.crc = c) ∧
      (unitOf i = .crc → { u.crc with expect := t.crc.expect } = t.crc)) ∧
    (∀ f, exec i s = .fault f → exec i { s with crc := c } = .fault f)

/-! ## Faults and units -/

/-- 60_exceptions.md R133 to R135: a command that answers `fault(c)` has done its unit's fault entry and nothing else. -/
def Obligations.FaultsArePrecise : Prop :=
  ∀ (i : Instr) (s t : State) (c : FaultCode), exec i s = .next t → t.out = s.out ++ [.response (.fault c)] →
    match unitOf i with
    | .writer => t = writerFault s c
    | .buffer => t = bareFault s c ∧ c = .badLimit
    | .reader r => r.toNat < s.readers.length → t = readerFault s r.toNat c
    | .crc => False

/-- 60_exceptions.md R137: a FAULTED unit answers `BadState` to all work and keeps its first code; it leaves FAULTED
only by being created anew or by a reset: a step that is neither a reset nor a decoded command changes no unit. -/
def Obligations.FaultedUnitsRefuseAllWork : Prop :=
  (∀ (s : State) (n : BitVec 8) (v : Word64), s.writer.state = .faulted →
    ∀ i ∈ [Instr.write n v, .writes n v, .pademit],
      exec i s = .next { s with faultLog := s.faultLog ||| 0x10, out := s.out ++ [.response (.fault .badState)] }) ∧
  (∀ (s : State) (r : BitVec 4) (n : BitVec 8) (v : Word64) (rd : Reader), s.readers[r.toNat]? = some rd →
    rd.state = .faulted → ∀ i ∈ [Instr.read r n, .reads r n, .skip r v],
      exec i s = .next { s with faultLog := s.faultLog ||| 0x10, out := s.out ++ [.response (.fault .badState)] }) ∧
  (∀ (i : Instr) (s t : State), exec i s = .next t → s.writer.state = .faulted →
    i = .wopen ∨ (t.writer.state = .faulted ∧ t.writer.fault = s.writer.fault)) ∧
  (∀ (i : Instr) (s t : State) (q : Nat) (rd : Reader), exec i s = .next t → s.readers[q]? = some rd →
    rd.state = .faulted → (∃ p, i = .rload p ∧ p.length ≤ s.cfg.rbufMaxBytes) ∨
      (∃ r v, i = .ropen r v ∧ r.toNat = q ∧ t.readers[q]? = some ⟨.opened, 0, v, none⟩) ∨
      t.readers[q]? = some rd) ∧
  (∀ s t : State, step s = .next t → (∃ rest, s.pending = .reset :: rest) ∨
    (∃ c rest i, s.pending = .command c :: rest ∧ decode s.numReaders c.word c.payload = .ok i ∧
      exec i { s with pending := rest } = .next t) ∨
    (t.writer = s.writer ∧ t.readers = s.readers))

/-- Every command changes only its own unit, the log and the output (20_memory.md, section 5; 60_exceptions.md, section
2): the frame of all eleven commands, byte by byte for the buffers. -/
def Obligations.CommandsChangeOnlyTheirUnit : Prop :=
  ∀ (i : Instr) (s t : State), exec i s = .next t →
    (unitOf i ≠ .writer → t.writer = s.writer ∧ ∀ a, byteAt t.writer.bytes a = byteAt s.writer.bytes a) ∧
    (unitOf i ≠ .buffer → t.rbuf = s.rbuf ∧ ∀ a, byteAt t.rbuf.bytes a = byteAt s.rbuf.bytes a) ∧
    (∀ q, unitOf i ≠ .buffer → (∀ r, unitOf i = .reader r → r.toNat ≠ q) → t.readers[q]? = s.readers[q]?) ∧
    (unitOf i ≠ .crc → t.crc = s.crc)

/-- Adjacent commands of independent units may be swapped without changing either response or the final state
(20_memory.md, section 5). -/
def Obligations.IndependentCommandsCommute : Prop :=
  ∀ (i j : Instr) (s s₁ s₂ : State), independent (unitOf i) (unitOf j) →
    exec i s = .next s₁ → exec j s₁ = .next s₂ →
    ∃ t₁ t₂ a b, exec j s = .next t₁ ∧ exec i t₁ = .next t₂ ∧
      s₁.out = s.out ++ [a] ∧ s₂.out = s.out ++ [a, b] ∧ t₁.out = s.out ++ [b] ∧ t₂.out = s.out ++ [b, a] ∧
      { t₂ with out := s₂.out } = s₂

/-! ## The ports at a reset -/

/-- A reset keeps the parameters, the host's events still waiting and the outputs already delivered: the model's reading
of 70_reset_and_hazards.md, section 1 (notes/assumptions/7.md, with 1.md, 2.md and 3.md). -/
def Obligations.ResetKeepsTheHostsSide : Prop :=
  ∀ (s : State) (rest : List PortEvent), s.pending = .reset :: rest →
    ∃ t, step s = .next t ∧ t.cfg = s.cfg ∧ t.pending = rest ∧ t.out = s.out
end

