-- ==== Sys2Proof/Laws/Encoding.lean ====
section
/-! SUPPORT. The fields of a command word: each field of `{OP, R, N, V}` is what was put there, and the word is its
fields (spec 30_encoding.md R50). -/

namespace Sys2Proof

variable (op r : BitVec 4) (n : BitVec 8) (v : Word64) (len x : BitVec 32)

@[simp] theorem opField_commandWord : opField (commandWord op r n v) = op := by
  apply BitVec.eq_of_getLsbD_eq
  intro i hi
  simp only [opField, commandWord, BitVec.getLsbD_extractLsb', BitVec.getLsbD_append, hi, decide_true, Bool.true_and]
  rw [if_neg (by omega), if_neg (by omega), if_neg (by omega)]
  congr 1; omega

@[simp] theorem rField_commandWord : rField (commandWord op r n v) = r := by
  apply BitVec.eq_of_getLsbD_eq
  intro i hi
  simp only [rField, commandWord, BitVec.getLsbD_extractLsb', BitVec.getLsbD_append, hi, decide_true, Bool.true_and]
  rw [if_neg (by omega), if_neg (by omega), if_pos (by omega)]
  congr 1; omega

@[simp] theorem nField_commandWord : nField (commandWord op r n v) = n := by
  apply BitVec.eq_of_getLsbD_eq
  intro i hi
  simp only [nField, commandWord, BitVec.getLsbD_extractLsb', BitVec.getLsbD_append, hi, decide_true, Bool.true_and]
  rw [if_neg (by omega), if_pos (by omega)]
  congr 1; omega

@[simp] theorem vField_commandWord : vField (commandWord op r n v) = v := by
  apply BitVec.eq_of_getLsbD_eq
  intro i hi
  simp only [vField, commandWord, BitVec.getLsbD_extractLsb', BitVec.getLsbD_append, hi, decide_true, Bool.true_and]
  rw [if_pos (by omega)]
  congr 1; omega

theorem lenField_eq (w : CommandWord) : lenField w = (vField w).extractLsb' 32 32 := by
  apply BitVec.eq_of_getLsbD_eq
  intro i hi
  simp only [lenField, vField, BitVec.getLsbD_extractLsb', hi, decide_true, Bool.true_and]
  rw [decide_eq_true (by omega), Bool.true_and]
  congr 1; omega

theorem xField_eq (w : CommandWord) : xField w = (vField w).extractLsb' 0 32 := by
  apply BitVec.eq_of_getLsbD_eq
  intro i hi
  simp only [xField, vField, BitVec.getLsbD_extractLsb', hi, decide_true, Bool.true_and]
  rw [decide_eq_true (by omega), Bool.true_and]
  congr 1; omega

@[simp] theorem lenField_commandWord : lenField (commandWord op r n (lenX len x)) = len := by
  rw [lenField_eq, vField_commandWord]
  apply BitVec.eq_of_getLsbD_eq
  intro i hi
  simp only [lenX, BitVec.getLsbD_extractLsb', BitVec.getLsbD_append, hi, decide_true, Bool.true_and]
  rw [if_neg (by omega)]
  congr 1; omega

@[simp] theorem xField_commandWord : xField (commandWord op r n (lenX len x)) = x := by
  rw [xField_eq, vField_commandWord]
  apply BitVec.eq_of_getLsbD_eq
  intro i hi
  simp only [lenX, BitVec.getLsbD_extractLsb', BitVec.getLsbD_append, hi, decide_true, Bool.true_and]
  rw [if_pos (by omega)]
  congr 1; omega

/-- A word is the word of its fields. -/
theorem commandWord_fields (w : CommandWord) : commandWord (opField w) (rField w) (nField w) (vField w) = w := by
  apply BitVec.eq_of_getLsbD_eq
  intro i hi
  simp only [opField, rField, nField, vField, commandWord, BitVec.getLsbD_extractLsb', BitVec.getLsbD_append]
  split
  · simp_all
  · split
    · rw [decide_eq_true (by omega), Bool.true_and]; congr 1; omega
    · split
      · rw [decide_eq_true (by omega), Bool.true_and]; congr 1; omega
      · rw [decide_eq_true (by omega), Bool.true_and]; congr 1; omega

/-- `V` is `{LEN, X}`. -/
theorem lenX_fields (w : CommandWord) : lenX (lenField w) (xField w) = vField w := by
  rw [lenField_eq, xField_eq]
  apply BitVec.eq_of_getLsbD_eq
  intro i hi
  simp only [lenX, BitVec.getLsbD_extractLsb', BitVec.getLsbD_append]
  split
  · simp_all
  · rw [decide_eq_true (by omega), Bool.true_and]; congr 1; omega

/-- Masking a word masks each of its fields (30_encoding.md R53). -/
theorem commandWord_and (op' r' : BitVec 4) (n' : BitVec 8) (v' : Word64) :
    commandWord op r n v &&& commandWord op' r' n' v' =
      commandWord (op &&& op') (r &&& r') (n &&& n') (v &&& v') := by
  apply BitVec.eq_of_getLsbD_eq
  intro i hi
  simp only [commandWord, BitVec.getLsbD_and, BitVec.getLsbD_append]
  split
  · rfl
  · split
    · rfl
    · split <;> rfl

/-- Two words are equal iff their fields are. -/
theorem commandWord_inj (op' r' : BitVec 4) (n' : BitVec 8) (v' : Word64) :
    commandWord op r n v = commandWord op' r' n' v' ↔ op = op' ∧ r = r' ∧ n = n' ∧ v = v' := by
  constructor
  · intro h
    refine ⟨?_, ?_, ?_, ?_⟩
    · simpa using congrArg opField h
    · simpa using congrArg rField h
    · simpa using congrArg nField h
    · simpa using congrArg vField h
  · rintro ⟨rfl, rfl, rfl, rfl⟩; rfl

/-- The payload test passes iff the lengths agree (30_encoding.md R55 (d)). -/
theorem attachPayload_ok {h : Header} {p : List Byte} (e : p.length = h.payloadLength) :
    attachPayload h p = .ok (h.instr p) := if_pos e

theorem attachPayload_error {h : Header} {p : List Byte} (e : p.length ≠ h.payloadLength) :
    attachPayload h p = .error .payloadLength := if_neg e

end Sys2Proof
end

