-- ==== Sys2Proof/Laws/State.lean ====
section
/-! SUPPORT. One lemma per field per update of the state, true by `rfl`, so that no proof unfolds a record update. -/

namespace Sys2Proof.Machine

variable (s : State)

/-! ## `State.setWriter` -/

@[simp] theorem State.setWriter_cfg (w : Writer) : (s.setWriter w).cfg = s.cfg := rfl
@[simp] theorem State.setWriter_writer (w : Writer) : (s.setWriter w).writer = w := rfl
@[simp] theorem State.setWriter_rbuf (w : Writer) : (s.setWriter w).rbuf = s.rbuf := rfl
@[simp] theorem State.setWriter_readers (w : Writer) : (s.setWriter w).readers = s.readers := rfl
@[simp] theorem State.setWriter_crc (w : Writer) : (s.setWriter w).crc = s.crc := rfl
@[simp] theorem State.setWriter_faultLog (w : Writer) : (s.setWriter w).faultLog = s.faultLog := rfl
@[simp] theorem State.setWriter_pending (w : Writer) : (s.setWriter w).pending = s.pending := rfl
@[simp] theorem State.setWriter_out (w : Writer) : (s.setWriter w).out = s.out := rfl

/-! ## `State.modifyReader` -/

@[simp] theorem State.modifyReader_cfg (r : Nat) (f : Reader → Reader) : (s.modifyReader r f).cfg = s.cfg := rfl
@[simp] theorem State.modifyReader_writer (r : Nat) (f : Reader → Reader) : (s.modifyReader r f).writer = s.writer := rfl
@[simp] theorem State.modifyReader_rbuf (r : Nat) (f : Reader → Reader) : (s.modifyReader r f).rbuf = s.rbuf := rfl
@[simp] theorem State.modifyReader_readers (r : Nat) (f : Reader → Reader) : (s.modifyReader r f).readers = s.readers.modify r f := rfl
@[simp] theorem State.modifyReader_crc (r : Nat) (f : Reader → Reader) : (s.modifyReader r f).crc = s.crc := rfl
@[simp] theorem State.modifyReader_faultLog (r : Nat) (f : Reader → Reader) : (s.modifyReader r f).faultLog = s.faultLog := rfl
@[simp] theorem State.modifyReader_pending (r : Nat) (f : Reader → Reader) : (s.modifyReader r f).pending = s.pending := rfl
@[simp] theorem State.modifyReader_out (r : Nat) (f : Reader → Reader) : (s.modifyReader r f).out = s.out := rfl

/-! ## `State.setCrc` -/

@[simp] theorem State.setCrc_cfg (c : CrcStatus) : (s.setCrc c).cfg = s.cfg := rfl
@[simp] theorem State.setCrc_writer (c : CrcStatus) : (s.setCrc c).writer = s.writer := rfl
@[simp] theorem State.setCrc_rbuf (c : CrcStatus) : (s.setCrc c).rbuf = s.rbuf := rfl
@[simp] theorem State.setCrc_readers (c : CrcStatus) : (s.setCrc c).readers = s.readers := rfl
@[simp] theorem State.setCrc_crc (c : CrcStatus) : (s.setCrc c).crc = c := rfl
@[simp] theorem State.setCrc_faultLog (c : CrcStatus) : (s.setCrc c).faultLog = s.faultLog := rfl
@[simp] theorem State.setCrc_pending (c : CrcStatus) : (s.setCrc c).pending = s.pending := rfl
@[simp] theorem State.setCrc_out (c : CrcStatus) : (s.setCrc c).out = s.out := rfl

/-! ## `State.emit` -/

@[simp] theorem State.emit_cfg (o : PortOutput) : (s.emit o).cfg = s.cfg := rfl
@[simp] theorem State.emit_writer (o : PortOutput) : (s.emit o).writer = s.writer := rfl
@[simp] theorem State.emit_rbuf (o : PortOutput) : (s.emit o).rbuf = s.rbuf := rfl
@[simp] theorem State.emit_readers (o : PortOutput) : (s.emit o).readers = s.readers := rfl
@[simp] theorem State.emit_crc (o : PortOutput) : (s.emit o).crc = s.crc := rfl
@[simp] theorem State.emit_faultLog (o : PortOutput) : (s.emit o).faultLog = s.faultLog := rfl
@[simp] theorem State.emit_pending (o : PortOutput) : (s.emit o).pending = s.pending := rfl
@[simp] theorem State.emit_out (o : PortOutput) : (s.emit o).out = s.out ++ [o] := rfl

/-! ## `State.respond` -/

@[simp] theorem State.respond_cfg (r : Response) : (s.respond r).cfg = s.cfg := rfl
@[simp] theorem State.respond_writer (r : Response) : (s.respond r).writer = s.writer := rfl
@[simp] theorem State.respond_rbuf (r : Response) : (s.respond r).rbuf = s.rbuf := rfl
@[simp] theorem State.respond_readers (r : Response) : (s.respond r).readers = s.readers := rfl
@[simp] theorem State.respond_crc (r : Response) : (s.respond r).crc = s.crc := rfl
@[simp] theorem State.respond_faultLog (r : Response) : (s.respond r).faultLog = s.faultLog := rfl
@[simp] theorem State.respond_pending (r : Response) : (s.respond r).pending = s.pending := rfl
@[simp] theorem State.respond_out (r : Response) : (s.respond r).out = s.out ++ [.response r] := rfl

/-! ## `State.loadBuffer` -/

@[simp] theorem State.loadBuffer_cfg (p : List Byte) : (s.loadBuffer p).cfg = s.cfg := rfl
@[simp] theorem State.loadBuffer_writer (p : List Byte) : (s.loadBuffer p).writer = s.writer := rfl
@[simp] theorem State.loadBuffer_rbuf (p : List Byte) : (s.loadBuffer p).rbuf = ⟨p, true⟩ := rfl
@[simp] theorem State.loadBuffer_readers (p : List Byte) : (s.loadBuffer p).readers = List.replicate s.numReaders Reader.close := rfl
@[simp] theorem State.loadBuffer_crc (p : List Byte) : (s.loadBuffer p).crc = s.crc := rfl
@[simp] theorem State.loadBuffer_faultLog (p : List Byte) : (s.loadBuffer p).faultLog = s.faultLog := rfl
@[simp] theorem State.loadBuffer_pending (p : List Byte) : (s.loadBuffer p).pending = s.pending := rfl
@[simp] theorem State.loadBuffer_out (p : List Byte) : (s.loadBuffer p).out = s.out := rfl

/-! ## `State.resetBlock` -/

@[simp] theorem State.resetBlock_cfg : (s.resetBlock).cfg = s.cfg := rfl
@[simp] theorem State.resetBlock_writer : (s.resetBlock).writer = Writer.reset := rfl
@[simp] theorem State.resetBlock_rbuf : (s.resetBlock).rbuf = ReaderBuffer.reset := rfl
@[simp] theorem State.resetBlock_readers : (s.resetBlock).readers = List.replicate s.numReaders Reader.reset := rfl
@[simp] theorem State.resetBlock_crc : (s.resetBlock).crc = CrcStatus.reset := rfl
@[simp] theorem State.resetBlock_faultLog : (s.resetBlock).faultLog = 0 := rfl
@[simp] theorem State.resetBlock_pending : (s.resetBlock).pending = s.pending := rfl
@[simp] theorem State.resetBlock_out : (s.resetBlock).out = s.out := rfl

/-! ## `State.logFault` -/

@[simp] theorem State.logFault_cfg (c : FaultCode) : (s.logFault c).cfg = s.cfg := rfl
@[simp] theorem State.logFault_writer (c : FaultCode) : (s.logFault c).writer = s.writer := rfl
@[simp] theorem State.logFault_rbuf (c : FaultCode) : (s.logFault c).rbuf = s.rbuf := rfl
@[simp] theorem State.logFault_readers (c : FaultCode) : (s.logFault c).readers = s.readers := rfl
@[simp] theorem State.logFault_crc (c : FaultCode) : (s.logFault c).crc = s.crc := rfl
@[simp] theorem State.logFault_faultLog (c : FaultCode) : (s.logFault c).faultLog = s.faultLog ||| c.logBit := rfl
@[simp] theorem State.logFault_pending (c : FaultCode) : (s.logFault c).pending = s.pending := rfl
@[simp] theorem State.logFault_out (c : FaultCode) : (s.logFault c).out = s.out := rfl

/-! ## `State.issueFirst` -/

@[simp] theorem State.issueFirst_cfg (e : PortEvent) : (s.issueFirst e).cfg = s.cfg := rfl
@[simp] theorem State.issueFirst_writer (e : PortEvent) : (s.issueFirst e).writer = s.writer := rfl
@[simp] theorem State.issueFirst_rbuf (e : PortEvent) : (s.issueFirst e).rbuf = s.rbuf := rfl
@[simp] theorem State.issueFirst_readers (e : PortEvent) : (s.issueFirst e).readers = s.readers := rfl
@[simp] theorem State.issueFirst_crc (e : PortEvent) : (s.issueFirst e).crc = s.crc := rfl
@[simp] theorem State.issueFirst_faultLog (e : PortEvent) : (s.issueFirst e).faultLog = s.faultLog := rfl
@[simp] theorem State.issueFirst_pending (e : PortEvent) : (s.issueFirst e).pending = e :: s.pending := rfl
@[simp] theorem State.issueFirst_out (e : PortEvent) : (s.issueFirst e).out = s.out := rfl

/-! ## `State.enterFault` and `State.takeFault` -/

@[simp] theorem State.enterFault_writer_unit (c : FaultCode) :
    s.enterFault .writer c = s.setWriter (s.writer.enterFault c) := rfl
@[simp] theorem State.enterFault_reader_unit (r : Nat) (c : FaultCode) :
    s.enterFault (.reader r) c = s.modifyReader r (·.enterFault c) := rfl
@[simp] theorem State.enterFault_no_unit (c : FaultCode) : s.enterFault .noUnit c = s := rfl

variable (u : FaultUnit) (c : FaultCode)

@[simp] theorem State.enterFault_cfg : (s.enterFault u c).cfg = s.cfg := by cases u <;> rfl
@[simp] theorem State.enterFault_rbuf : (s.enterFault u c).rbuf = s.rbuf := by cases u <;> rfl
@[simp] theorem State.enterFault_crc : (s.enterFault u c).crc = s.crc := by cases u <;> rfl
@[simp] theorem State.enterFault_faultLog : (s.enterFault u c).faultLog = s.faultLog := by cases u <;> rfl
@[simp] theorem State.enterFault_pending : (s.enterFault u c).pending = s.pending := by cases u <;> rfl
@[simp] theorem State.enterFault_out : (s.enterFault u c).out = s.out := by cases u <;> rfl

@[simp] theorem State.takeFault_cfg : (s.takeFault u c).cfg = s.cfg := by cases u <;> rfl
@[simp] theorem State.takeFault_writer : (s.takeFault u c).writer = (s.enterFault u c).writer := by cases u <;> rfl
@[simp] theorem State.takeFault_rbuf : (s.takeFault u c).rbuf = s.rbuf := by cases u <;> rfl
@[simp] theorem State.takeFault_readers : (s.takeFault u c).readers = (s.enterFault u c).readers := by cases u <;> rfl
@[simp] theorem State.takeFault_crc : (s.takeFault u c).crc = s.crc := by cases u <;> rfl
@[simp] theorem State.takeFault_faultLog : (s.takeFault u c).faultLog = s.faultLog ||| c.logBit := by cases u <;> rfl
@[simp] theorem State.takeFault_pending : (s.takeFault u c).pending = s.pending := by cases u <;> rfl
@[simp] theorem State.takeFault_out : (s.takeFault u c).out = s.out ++ [.response (.fault c)] := by cases u <;> rfl

@[simp] theorem State.takeFault_numReaders : (s.takeFault u c).readers.length = s.readers.length := by
  cases u <;> simp [State.takeFault]

/-! ## The units -/

@[simp] theorem Writer.appendBit_state (w : Writer) (b : Bool) : (w.appendBit b).state = w.state := by
  unfold Writer.appendBit; dsimp only; split <;> rfl
@[simp] theorem Writer.appendBit_fault (w : Writer) (b : Bool) : (w.appendBit b).fault = w.fault := by
  unfold Writer.appendBit; dsimp only; split <;> rfl
@[simp] theorem Writer.appendBit_total (w : Writer) (b : Bool) : (w.appendBit b).total = w.total + 1 := by
  unfold Writer.appendBit; dsimp only; split <;> rfl
@[simp] theorem Writer.pad_state (w : Writer) : w.pad.state = w.state := by unfold Writer.pad; split <;> rfl
@[simp] theorem Writer.pad_fault (w : Writer) : w.pad.fault = w.fault := by unfold Writer.pad; split <;> rfl
@[simp] theorem Writer.pad_total (w : Writer) : w.pad.total = w.total := by unfold Writer.pad; split <;> rfl
@[simp] theorem Writer.pad_cnt (w : Writer) : w.pad.cnt = 0 := by
  unfold Writer.pad; split <;> simp_all
@[simp] theorem Writer.enterFault_bytes (w : Writer) (c : FaultCode) : (w.enterFault c).bytes = w.bytes := by
  unfold Writer.enterFault; split <;> rfl
@[simp] theorem Writer.enterFault_acc (w : Writer) (c : FaultCode) : (w.enterFault c).acc = w.acc := by
  unfold Writer.enterFault; split <;> rfl
@[simp] theorem Writer.enterFault_cnt (w : Writer) (c : FaultCode) : (w.enterFault c).cnt = w.cnt := by
  unfold Writer.enterFault; split <;> rfl
@[simp] theorem Writer.enterFault_total (w : Writer) (c : FaultCode) : (w.enterFault c).total = w.total := by
  unfold Writer.enterFault; split <;> rfl
@[simp] theorem Writer.enterFault_state (w : Writer) (c : FaultCode) : (w.enterFault c).state = .faulted := by
  unfold Writer.enterFault; split <;> simp_all
@[simp] theorem Reader.enterFault_pos (rd : Reader) (c : FaultCode) : (rd.enterFault c).pos = rd.pos := by
  unfold Reader.enterFault; split <;> rfl
@[simp] theorem Reader.enterFault_limit (rd : Reader) (c : FaultCode) : (rd.enterFault c).limit = rd.limit := by
  unfold Reader.enterFault; split <;> rfl
@[simp] theorem Reader.enterFault_state (rd : Reader) (c : FaultCode) : (rd.enterFault c).state = .faulted := by
  unfold Reader.enterFault; split <;> simp_all
@[simp] theorem Reader.advance_state (rd : Reader) (n : Nat) : (rd.advance n).state = rd.state := rfl
@[simp] theorem Reader.advance_pos (rd : Reader) (n : Nat) : (rd.advance n).pos = rd.pos + BitVec.ofNat 64 n := rfl
@[simp] theorem Reader.advance_limit (rd : Reader) (n : Nat) : (rd.advance n).limit = rd.limit := rfl
@[simp] theorem Reader.advance_fault (rd : Reader) (n : Nat) : (rd.advance n).fault = rd.fault := rfl

end Sys2Proof.Machine
end

