-- ==== Sys2Proof/Laws/Ops.lean ====
section
/-! SUPPORT. For each shared operation, once, everything it can do; the proofs cite these and do not unfold the
operations. -/

namespace Sys2Proof.Machine

/-! ## The checks -/

/-- A check passes with the checks after it iff it does not fail and they pass. -/
theorem check_eq_none_iff {α : Type} (p : Prop) [Decidable p] (c : α) (rest : Option α) :
    (if p then some c else rest) = none ↔ ¬ p ∧ rest = none := by
  by_cases h : p <;> simp [h]

/-- A write passes its checks iff it meets the conditions of 40_writer.md R71. -/
theorem writeCheck_eq_none_iff (c : Config) (w : Writer) (n : Nat) :
    writeCheck c w n = none ↔ w.state = .opened ∧ 1 ≤ n ∧ n ≤ 64 ∧ w.total.toNat + n < 2 ^ 64 ∧
      wbufHolds c (ceil8 (w.total.toNat + n)) = true := by
  unfold writeCheck legalWidth writerOverflows nbitsMin nbitsMax posW
  rw [check_eq_none_iff, check_eq_none_iff, check_eq_none_iff]
  simp [and_assoc, Nat.one_le_iff_ne_zero]

/-- A read passes its checks iff it meets the conditions of 41_reader.md R94. -/
theorem readCheck_eq_none_iff (rd : Reader) (n : Nat) :
    readCheck rd n = none ↔ rd.state = .opened ∧ 1 ≤ n ∧ n ≤ 64 ∧ rd.pos.toNat + n ≤ rd.limit.toNat := by
  unfold readCheck legalWidth exhausted nbitsMin nbitsMax
  rw [check_eq_none_iff, check_eq_none_iff, check_eq_none_iff]
  simp [and_assoc, Nat.one_le_iff_ne_zero]

/-- A skip passes its checks iff it meets the conditions of 41_reader.md R99. -/
theorem skipCheck_eq_none_iff (rd : Reader) (n : Nat) :
    skipCheck rd n = none ↔ rd.state = .opened ∧ rd.pos.toNat + n ≤ rd.limit.toNat := by
  unfold skipCheck exhausted
  by_cases h : rd.state = .opened <;> simp [h]

/-- `PADEMIT` passes its check iff the writer is OPEN (40_writer.md R76). -/
theorem pademitCheck_eq_none_iff (w : Writer) : pademitCheck w = none ↔ w.state = .opened := by
  simp [pademitCheck]

/-- `ROPEN` passes its checks iff it meets the conditions of 41_reader.md R92. -/
theorem ropenCheck_eq_none_iff (b : ReaderBuffer) (n : Nat) :
    ropenCheck b n = none ↔ b.loaded = true ∧ n ≤ bitLength b.bytes := by
  unfold ropenCheck
  by_cases h : b.loaded = true <;> simp [h]

/-- `RLOAD` passes its check iff the payload fits the buffer (41_reader.md R90). -/
theorem rloadCheck_eq_none_iff (c : Config) (p : List Byte) :
    rloadCheck c p = none ↔ p.length ≤ c.rbufMaxBytes := by
  simp [rloadCheck]

/-! ## The shared meanings: what each can answer -/

/-- `appendBits` always goes on: it faults by the first failing check, or appends. -/
theorem appendBits_cases (n v : Nat) (s : State) :
    (∃ c, writeCheck s.cfg s.writer n = some c ∧ appendBits n v s = .next (s.takeFault .writer c)) ∨
    (writeCheck s.cfg s.writer n = none ∧
      appendBits n v s = .next ((s.setWriter (s.writer.memWrite v n)).respond (.ok 0 []))) := by
  unfold appendBits
  cases h : writeCheck s.cfg s.writer n with
  | some c => exact .inl ⟨c, rfl, rfl⟩
  | none => exact .inr ⟨rfl, rfl⟩

/-- `PADEMIT` always goes on: `BadState`, or the padded stream. -/
theorem execPademit_cases (s : State) :
    (∃ c, pademitCheck s.writer = some c ∧ execPademit s = .next (s.takeFault .writer c)) ∨
    (pademitCheck s.writer = none ∧
      execPademit s = .next ((s.setWriter { s.writer.pad with state := .done }).respond
        (.ok s.writer.total s.writer.pad.bytes))) := by
  unfold execPademit
  cases h : pademitCheck s.writer with
  | some c => exact .inl ⟨c, rfl, rfl⟩
  | none => exact .inr ⟨rfl, rfl⟩

/-- `RLOAD` always goes on: `BadLimit`, or the loaded buffer. -/
theorem execRload_cases (p : List Byte) (s : State) :
    (∃ c, rloadCheck s.cfg p = some c ∧ execRload p s = .next (s.takeFault .noUnit c)) ∨
    (rloadCheck s.cfg p = none ∧ execRload p s = .next ((s.loadBuffer p).respond (.ok 0 []))) := by
  unfold execRload
  cases h : rloadCheck s.cfg p with
  | some c => exact .inl ⟨c, rfl, rfl⟩
  | none => exact .inr ⟨rfl, rfl⟩

/-- A reader command acts on its reader, or on none if the block does not have it. -/
theorem onReader_cases (r : BitVec 4) (s : State) (k : Reader → Host.Outcome State Fault Refusal) :
    (∃ rd, s.readers[r.toNat]? = some rd ∧ onReader r s k = k rd) ∨
    (s.readers[r.toNat]? = none ∧ onReader r s k = .next (s.takeFault .noUnit .illegalCommand)) := by
  unfold onReader State.reader?
  cases h : s.readers[r.toNat]? with
  | some rd => exact .inl ⟨rd, rfl, rfl⟩
  | none => exact .inr ⟨rfl, rfl⟩

/-- `ROPEN` always goes on: no such reader, a fault of the reader, or the reader constructed. -/
theorem execRopen_cases (r : BitVec 4) (v : Word64) (s : State) :
    (s.readers[r.toNat]? = none ∧ execRopen r v s = .next (s.takeFault .noUnit .illegalCommand)) ∨
    ∃ rd, s.readers[r.toNat]? = some rd ∧
      ((∃ c, ropenCheck s.rbuf v.toNat = some c ∧ execRopen r v s = .next (s.takeFault (.reader r.toNat) c)) ∨
       (ropenCheck s.rbuf v.toNat = none ∧
        execRopen r v s =
          .next ((s.modifyReader r.toNat fun _ => Reader.create v).respond (.ok 0 [])))) := by
  unfold execRopen
  rcases onReader_cases r s _ with ⟨rd, h, e⟩ | ⟨h, e⟩
  · refine .inr ⟨rd, h, ?_⟩
    rw [e]
    cases ropenCheck s.rbuf v.toNat with
    | some c => exact .inl ⟨c, rfl, rfl⟩
    | none => exact .inr ⟨rfl, rfl⟩
  · exact .inl ⟨h, e⟩

/-- `SKIP` always goes on: no such reader, a fault of the reader, or the cursor moved. -/
theorem execSkip_cases (r : BitVec 4) (v : Word64) (s : State) :
    (s.readers[r.toNat]? = none ∧ execSkip r v s = .next (s.takeFault .noUnit .illegalCommand)) ∨
    ∃ rd, s.readers[r.toNat]? = some rd ∧
      ((∃ c, skipCheck rd v.toNat = some c ∧ execSkip r v s = .next (s.takeFault (.reader r.toNat) c)) ∨
       (skipCheck rd v.toNat = none ∧
        execSkip r v s = .next ((s.modifyReader r.toNat (·.advance v.toNat)).respond (.ok 0 [])))) := by
  unfold execSkip
  rcases onReader_cases r s _ with ⟨rd, h, e⟩ | ⟨h, e⟩
  · refine .inr ⟨rd, h, ?_⟩
    rw [e]
    cases skipCheck rd v.toNat with
    | some c => exact .inl ⟨c, rfl, rfl⟩
    | none => exact .inr ⟨rfl, rfl⟩
  · exact .inl ⟨h, e⟩

/-- `fetchBits`: no such reader, a fault of the reader, the bits read and the cursor moved, or a stop where a bit past
the end of the buffer would be read. -/
theorem fetchBits_cases (r : BitVec 4) (n : Nat) (extend : Nat → Word64) (s : State) :
    (s.readers[r.toNat]? = none ∧ fetchBits r n extend s = .next (s.takeFault .noUnit .illegalCommand)) ∨
    ∃ rd, s.readers[r.toNat]? = some rd ∧
      ((∃ c, readCheck rd n = some c ∧ fetchBits r n extend s = .next (s.takeFault (.reader r.toNat) c)) ∨
       (readCheck rd n = none ∧
        ((∃ v, memRead s.rbuf.bytes rd.pos.toNat n = some v ∧
            fetchBits r n extend s =
              .next ((s.modifyReader r.toNat (·.advance n)).respond (.ok (extend v) []))) ∨
         (memRead s.rbuf.bytes rd.pos.toNat n = none ∧ fetchBits r n extend s = .fault .rbufOutOfRange)))) := by
  unfold fetchBits
  rcases onReader_cases r s _ with ⟨rd, h, e⟩ | ⟨h, e⟩
  · refine .inr ⟨rd, h, ?_⟩
    rw [e]
    cases readCheck rd n with
    | some c => exact .inl ⟨c, rfl, rfl⟩
    | none =>
      refine .inr ⟨rfl, ?_⟩
      dsimp only
      cases memRead s.rbuf.bytes rd.pos.toNat n with
      | some v => exact .inl ⟨v, rfl, rfl⟩
      | none => exact .inr ⟨rfl, rfl⟩
  · exact .inl ⟨h, e⟩

/-! ## The step -/

/-- Everything a step can do: idle, or serve the first event that waits. -/
theorem step_cases (s : State) :
    (s.pending = [] ∧ s.fetchEvent = none) ∨
    ∃ e rest, s.pending = e :: rest ∧ s.fetchEvent = some (e, { s with pending := rest }) := by
  cases h : s.pending with
  | nil => exact .inl ⟨rfl, by simp [State.fetchEvent, h]⟩
  | cons e rest => exact .inr ⟨e, rest, rfl, by simp [State.fetchEvent, h]⟩

/-! ## Buffers and cells -/

theorem Memory.cellsFrom_addresses (b : List Byte) :
    ∀ base, (Memory.cellsFrom base b).map Prod.fst = List.range' base b.length := by
  induction b with
  | nil => intro base; rfl
  | cons x xs ih => intro base; simp [Memory.cellsFrom, ih, List.range'_succ]

/-- The canonical form of 20_memory.md's buffers as memories: every buffer, however an operation made it, lists
strictly rising addresses. -/
theorem Memory.cells_wf (b : List Byte) : Memory.wf (Memory.cells b) := by
  unfold Memory.wf Memory.cells
  rw [Memory.cellsFrom_addresses]
  exact List.pairwise_lt_range'

theorem Memory.cellsFrom_bytes (b : List Byte) :
    ∀ base, (Memory.cellsFrom base b).map Prod.snd = b := by
  induction b with
  | nil => intro base; rfl
  | cons x xs ih => intro base; simp [Memory.cellsFrom, ih]

/-- Equal memories are equal data: a buffer is its cells. -/
theorem Memory.cells_injective {b d : List Byte} (h : Memory.cells b = Memory.cells d) : b = d := by
  rw [← Memory.cellsFrom_bytes b 0, ← Memory.cellsFrom_bytes d 0]
  exact congrArg (List.map Prod.snd) h

end Sys2Proof.Machine

namespace Sys2Proof.Laws

/-- The host's table decoder is the block's decoder on the table word with the payload its `LEN` field announces. -/
theorem decodeTableWord_eq_decode (nbits w : Nat) :
    decodeTableWord nbits w =
      (decode Config.defaultNumReaders (tableCommand Config.defaultNumReaders w).word
        (tableCommand Config.defaultNumReaders w).payload).toOption := by
  unfold decodeTableWord tableCommand decode
  cases h : decodeHeader Config.defaultNumReaders (BitVec.ofNat 80 w) with
  | ok hd => simp [h, attachPayload, Except.toOption]
  | error e => simp [h, Except.toOption]

end Sys2Proof.Laws
end

