-- ==== Sys2Proof/Laws/PerInstr.lean ====
section
/-! SUPPORT. A law of every command as syntax, one lemma per constructor: its encoded word carries its opcode
(spec 30_encoding.md R53). -/

namespace Sys2Proof.Laws.OpcodeField

/-- The `OP` field of a command's word is the command's opcode. -/
def Statement (i : Instr) : Prop := opField (encode i).word = i.opcode

theorem wopen : Statement .wopen := opField_commandWord ..
theorem write (n : BitVec 8) (v : Word64) : Statement (.write n v) := opField_commandWord ..
theorem writes (n : BitVec 8) (v : Word64) : Statement (.writes n v) := opField_commandWord ..
theorem pademit : Statement .pademit := opField_commandWord ..
theorem rload (p : List Byte) : Statement (.rload p) := opField_commandWord ..
theorem ropen (r : BitVec 4) (v : Word64) : Statement (.ropen r v) := opField_commandWord ..
theorem read (r : BitVec 4) (n : BitVec 8) : Statement (.read r n) := opField_commandWord ..
theorem reads (r : BitVec 4) (n : BitVec 8) : Statement (.reads r n) := opField_commandWord ..
theorem skip (r : BitVec 4) (v : Word64) : Statement (.skip r v) := opField_commandWord ..
theorem crc32 (p : List Byte) : Statement (.crc32 p) := opField_commandWord ..
theorem crcchk (x : CrcWord) (p : List Byte) : Statement (.crcchk x p) := opField_commandWord ..

end Sys2Proof.Laws.OpcodeField
end

