-- ==== Sys2Proof/Machine/Assembler.lean ====
section
/-! DEFINITION. The spec's written form of commands and responses, and the pseudo-commands
(spec 30_encoding.md R59, R60). No step of the machine depends on it. -/

namespace Sys2Proof.Machine

/-! ## Pseudo-commands (R60): each is exactly one command -/

/-- `WBIT b`. -/
def wbit (b : Word64) : Instr := .write 1 b
/-- `WBYTE b`. -/
def wbyte (b : Word64) : Instr := .write 8 b
/-- `WRITE64 v`. -/
def write64 (v : Word64) : Instr := .write 64 v
/-- `RBIT r`. -/
def rbit (r : BitVec 4) : Instr := .read r 1
/-- `READ64 r`. -/
def read64 (r : BitVec 4) : Instr := .read r 64
/-- `ROPENALL r`, over a buffer of `rbLen` bytes. -/
def ropenAll (rbLen : Nat) (r : BitVec 4) : Instr := .ropen r (BitVec.ofNat 64 (8 * rbLen))

/-- A line of an assembler program: a command or a pseudo-command. -/
inductive AsmLine where
  | command (i : Instr)
  | wbit (b : Word64)
  | wbyte (b : Word64)
  | write64 (v : Word64)
  | rbit (r : BitVec 4)
  | read64 (r : BitVec 4)
  | ropenAll (r : BitVec 4)
deriving DecidableEq, Repr

/-- The command of a line; `rbLen` is the length of the preceding `RLOAD`. -/
def AsmLine.expand (rbLen : Nat) : AsmLine → Instr
  | .command i => i
  | .wbit b => Machine.wbit b
  | .wbyte b => Machine.wbyte b
  | .write64 v => Machine.write64 v
  | .rbit r => Machine.rbit r
  | .read64 r => Machine.read64 r
  | .ropenAll r => Machine.ropenAll rbLen r

/-- The `RB.len` that lines after this command see. -/
def loadedLength (rbLen : Nat) (i : Instr) : Nat :=
  match i with
  | .rload payload => payload.length
  | .wopen => rbLen
  | .write _ _ => rbLen
  | .writes _ _ => rbLen
  | .pademit => rbLen
  | .ropen _ _ => rbLen
  | .read _ _ => rbLen
  | .reads _ _ => rbLen
  | .skip _ _ => rbLen
  | .crc32 _ => rbLen
  | .crcchk _ _ => rbLen

/-- A program's lines as commands, in order; the assembler takes `RB.len` from the preceding `RLOAD` (R60). -/
def assemble (rbLen : Nat) : List AsmLine → List Instr
  | [] => []
  | l :: ls => l.expand rbLen :: assemble (loadedLength rbLen (l.expand rbLen)) ls

/-! ## Writing (R59) -/

/-- A byte as two hexadecimal digits. -/
def byteText (b : Byte) : String :=
  String.ofList [Nat.digitChar (b.toNat / 16), Nat.digitChar (b.toNat % 16)]

/-- Payload bytes in hexadecimal, space separated. -/
def bytesText (bs : List Byte) : String := String.intercalate " " (bs.map byteText)

/-- A command in the form of R59. -/
def instrText (i : Instr) : String :=
  match i with
  | .wopen => "WOPEN"
  | .write n v => "WRITE " ++ toString v.toNat ++ ", " ++ toString n.toNat
  | .writes n v => "WRITES " ++ toString v.toInt ++ ", " ++ toString n.toNat
  | .pademit => "PADEMIT"
  | .rload p => "RLOAD " ++ bytesText p
  | .ropen r v => "ROPEN " ++ toString r.toNat ++ ", " ++ toString v.toNat
  | .read r n => "READ " ++ toString r.toNat ++ ", " ++ toString n.toNat
  | .reads r n => "READS " ++ toString r.toNat ++ ", " ++ toString n.toNat
  | .skip r v => "SKIP " ++ toString r.toNat ++ ", " ++ toString v.toNat
  | .crc32 p => "CRC32 " ++ bytesText p
  | .crcchk x p => "CRCCHK " ++ toString x.toNat ++ ", " ++ bytesText p

/-- The name of a fault (60_exceptions.md R130). -/
def FaultCode.name : FaultCode → String
  | .streamExhausted => "StreamExhausted"
  | .illegalWidth => "IllegalWidth"
  | .illegalCommand => "IllegalCommand"
  | .badState => "BadState"
  | .writerOverflow => "WriterOverflow"
  | .badLimit => "BadLimit"

/-- A response in the form of R59. R59 gives both `-> ok` and `-> ok(v)` and does not say which to write when, nor how
to write `v`. DESIGN CHOICE: always `-> ok(v)`, with `v` the response's 64-bit value as an unsigned decimal number, also
where the spec's examples write a bare `-> ok` for the value 0, a hexadecimal checksum or a signed result of `READS`;
notes/assumptions/16.md. -/
def Response.text : Response → String
  | .ok v _ => "-> ok(" ++ toString v.toNat ++ ")"
  | .warn v => "-> warn(" ++ toString v.toNat ++ ")"
  | .fault c => "-> fault(" ++ c.name ++ ")"

/-! ## Reading (R59) -/

/-- The value of a digit in a base up to 16. -/
def digitValue (base : Nat) (c : Char) : Option Nat :=
  let v := if '0' ≤ c ∧ c ≤ '9' then c.toNat - '0'.toNat
    else if 'a' ≤ c ∧ c ≤ 'f' then c.toNat - 'a'.toNat + 10
    else if 'A' ≤ c ∧ c ≤ 'F' then c.toNat - 'A'.toNat + 10
    else 16
  if v < base then some v else none

/-- Digits after those already in `acc`. -/
def digitsValue (base acc : Nat) : List Char → Option Nat
  | [] => some acc
  | c :: cs =>
    match digitValue base c with
    | none => none
    | some d => digitsValue base (acc * base + d) cs

/-- A number of at least one digit. -/
def numberValue (base : Nat) (cs : List Char) : Option Nat :=
  if cs.isEmpty then none else digitsValue base 0 cs

/-- An unsigned number: decimal, `0x` hexadecimal or `0b` binary. -/
def unsignedValue : List Char → Option Nat
  | '0' :: 'x' :: cs => numberValue 16 cs
  | '0' :: 'b' :: cs => numberValue 2 cs
  | cs => numberValue 10 cs

/-- An unsigned operand of `w` bits. -/
def unsignedOperand (w : Nat) (cs : List Char) : Option (BitVec w) :=
  match unsignedValue cs with
  | none => none
  | some v => if v < 2 ^ w then some (BitVec.ofNat w v) else none

/-- The signed operand of `WRITES`: a signed decimal in -2^63 .. 2^63 - 1, or a 64-bit pattern in hexadecimal. -/
def signedOperand (cs : List Char) : Option Word64 :=
  match cs with
  | '0' :: 'x' :: _ => unsignedOperand 64 cs
  | '-' :: ds =>
    match numberValue 10 ds with
    | none => none
    | some v => if v ≤ 2 ^ 63 then some (u64 (-(v : Int))) else none
  | _ =>
    match numberValue 10 cs with
    | none => none
    | some v => if v < 2 ^ 63 then some (u64 (v : Int)) else none

/-- A payload byte: hexadecimal digits. -/
def byteOperand (cs : List Char) : Option Byte :=
  match numberValue 16 cs with
  | none => none
  | some v => if v < 2 ^ 8 then some (BitVec.ofNat 8 v) else none

/-- The text cut at every character that `sep` accepts, with the characters of the current piece in `piece`,
last first. -/
def cutAt (sep : Char → Bool) (piece : List Char) : List Char → List (List Char)
  | [] => [piece.reverse]
  | c :: cs => if sep c then piece.reverse :: cutAt sep [] cs else cutAt sep (c :: piece) cs

/-- The words of a text, cut at blanks. -/
def wordsOf (cs : List Char) : List (List Char) :=
  (cutAt (fun c => c == ' ' || c == '\t') [] cs).filter fun w => !w.isEmpty

/-- A line without its comment. -/
def withoutComment : List Char → List Char
  | [] => []
  | c :: cs => if c == ';' then [] else c :: withoutComment cs

/-- The line of a mnemonic and its operands, each operand a list of words. -/
def lineOf (mnemonic : String) (operands : List (List (List Char))) : Option AsmLine :=
  match mnemonic, operands with
  | "WOPEN", [[]] => some (.command .wopen)
  | "PADEMIT", [[]] => some (.command .pademit)
  | "WRITE", [[v], [n]] =>
    return .command (.write (← unsignedOperand 8 n) (← unsignedOperand 64 v))
  | "WRITES", [[v], [n]] => return .command (.writes (← unsignedOperand 8 n) (← signedOperand v))
  | "RLOAD", [bs] => return .command (.rload (← bs.mapM byteOperand))
  | "ROPEN", [[r], [v]] => return .command (.ropen (← unsignedOperand 4 r) (← unsignedOperand 64 v))
  | "READ", [[r], [n]] => return .command (.read (← unsignedOperand 4 r) (← unsignedOperand 8 n))
  | "READS", [[r], [n]] => return .command (.reads (← unsignedOperand 4 r) (← unsignedOperand 8 n))
  | "SKIP", [[r], [v]] => return .command (.skip (← unsignedOperand 4 r) (← unsignedOperand 64 v))
  | "CRC32", [bs] => return .command (.crc32 (← bs.mapM byteOperand))
  | "CRCCHK", [[x], bs] =>
    return .command (.crcchk (← unsignedOperand 32 x) (← bs.mapM byteOperand))
  | "WBIT", [[b]] => return .wbit (← unsignedOperand 64 b)
  | "WBYTE", [[b]] => return .wbyte (← unsignedOperand 64 b)
  | "WRITE64", [[v]] => return .write64 (← unsignedOperand 64 v)
  | "RBIT", [[r]] => return .rbit (← unsignedOperand 4 r)
  | "READ64", [[r]] => return .read64 (← unsignedOperand 4 r)
  | "ROPENALL", [[r]] => return .ropenAll (← unsignedOperand 4 r)
  | _, _ => none

/-- The characters before the first blank, and those after it. -/
def firstWord : List Char → List Char × List Char
  | [] => ([], [])
  | c :: cs => if c == ' ' || c == '\t' then ([], cs) else (c :: (firstWord cs).1, (firstWord cs).2)

/-- One line of text (R59): a mnemonic, then comma-separated operands; `;` to the end of the line is a comment. -/
def readLine (line : List Char) : Option AsmLine :=
  let cs := (withoutComment line).dropWhile fun c => c == ' ' || c == '\t'
  lineOf (String.ofList (firstWord cs).1) ((cutAt (· == ',') [] (firstWord cs).2).map wordsOf)

end Sys2Proof.Machine
end

