-- ==== Sys2Proof/Tests/Slice0.lean ====
section
/-! SUPPORT. Tests of the model: ill-formed commands, words written out from 30_encoding.md, one step of each command from
the vectors of 95_test_vectors.md and the examples of the rules, the printed table of 42_crc.md, and for each statement
with hypotheses a state and operands that meet them. -/

namespace Sys2Proof.Tests

open Sys2Proof.Machine Sys2Proof.Spec

/-! ## Well-formedness refuses -/

theorem test_wellFormed_refuses_ropen_of_a_missing_reader : WellFormed 2 (.ropen 2 8) = false := by decide
theorem test_wellFormed_refuses_read_of_a_missing_reader : WellFormed 2 (.read 15 8) = false := by decide
theorem test_wellFormed_refuses_reads_of_a_missing_reader : WellFormed 1 (.reads 1 8) = false := by decide
theorem test_wellFormed_refuses_skip_of_a_missing_reader : WellFormed 2 (.skip 2 0) = false := by decide
theorem test_payloadFits_refuses_a_payload_longer_than_len (p : List Byte) (h : p.length = 2 ^ 32) :
    payloadFits p = false := by simp [payloadFits, h]
theorem test_wellFormed_refuses_long_payloads (p : List Byte) (h : p.length = 2 ^ 32) (x : CrcWord) :
    WellFormed 2 (.rload p) = false ∧ WellFormed 2 (.crc32 p) = false ∧ WellFormed 2 (.crcchk x p) = false := by
  simp [WellFormed, payloadFits, h]

/-! ## Decoding: words written out field by field, `{OP, R, N, V}`, from 30_encoding.md R50 and R53 -/

theorem test_decode_wopen : decode 2 0x10000000000000000000 [] = .ok .wopen := by decide
theorem test_decode_write : decode 2 0x202100000001FFFFFFFF [] = .ok (.write 33 0x1FFFFFFFF) := by decide
theorem test_decode_writes : decode 2 0x3007FFFFFFFFFFFFFFFF [] = .ok (.writes 7 0xFFFFFFFFFFFFFFFF) := by decide
theorem test_decode_pademit : decode 2 0x40000000000000000000 [] = .ok .pademit := by decide
theorem test_decode_rload : decode 2 0x80000000000100000000 [0xAB] = .ok (.rload [0xAB]) := by decide
theorem test_decode_ropen : decode 2 0x910000000000000001C6 [] = .ok (.ropen 1 454) := by decide
theorem test_decode_read : decode 2 0xA10B0000000000000000 [] = .ok (.read 1 11) := by decide
theorem test_decode_reads : decode 2 0xB00C0000000000000000 [] = .ok (.reads 0 12) := by decide
theorem test_decode_skip : decode 2 0xC1000000000000000152 [] = .ok (.skip 1 338) := by decide
theorem test_decode_crc32 : decode 2 0xD0000000000100000000 [0x61] = .ok (.crc32 [0x61]) := by decide
theorem test_decode_crcchk :
    decode 2 0xE00000000001A8780BBE [0x61] = .ok (.crcchk 0xA8780BBE [0x61]) := by decide

/-! The rejected words of 95_test_vectors.md, section 2.5. -/

theorem test_decode_rejects_reserved_opcodes :
    decode 2 0 [] = .error .reservedOpcode ∧ decode 2 0xFFFFFFFFFFFFFFFFFFFF [] = .error .reservedOpcode ∧
    decode 2 0x50000000000000000000 [] = .error .reservedOpcode := by decide
theorem test_decode_rejects_reserved_fields :
    decode 2 0x10000000000000000001 [] = .error .reservedField ∧
    decode 2 0x21010000000000000001 [] = .error .reservedField ∧
    decode 2 0x40010000000000000000 [] = .error .reservedField ∧
    decode 2 0x90010000000000000008 [] = .error .reservedField ∧
    decode 2 0xA0080000000000000001 [] = .error .reservedField ∧
    decode 2 0xC0010000000000000004 [] = .error .reservedField ∧
    decode 2 0xD0000000000100000001 [0x00] = .error .reservedField := by decide
theorem test_decode_rejects_missing_readers_and_payloads :
    decode 2 0x92000000000000000008 [] = .error .readerNumber ∧
    decode 2 0xD0000000000200000000 [0x00] = .error .payloadLength ∧
    decode 2 0x20010000000000000001 [0x00] = .error .payloadLength := by decide

/-- Program P1 step 5 and `CRCCHK` of 95_test_vectors.md: the words and the payload. -/
theorem test_encode_words :
    encode (.write 64 0xDEADBEEFCAFEF00D) = ⟨0x2040DEADBEEFCAFEF00D, []⟩ ∧
    encode (.crcchk 0xCBF43926 [0x31, 0x32]) = ⟨0xE00000000002CBF43926, [0x31, 0x32]⟩ := by decide

theorem test_opcode_table_rows_have_different_patterns :
    (opcodeTable.map (·.pattern)).Nodup ∧ (opcodeTable.map (·.mnemonic)).Nodup := by decide

/-! ## One step of each command -/

/-- The next state, or the reset state where there is none. -/
def after (o : Host.Outcome State Fault Refusal) : State :=
  match o with
  | .next s => s
  | .fault _ => State.reset
  | .refused _ => State.reset

/-- The reset state with a writer. -/
def withWriter (st : WriterState) (bytes : List Byte) (acc : Byte) (cnt : Fin 8) (total : Word64) : State :=
  State.reset.setWriter ⟨st, bytes, acc, cnt, total, none⟩

/-- The reset state with a loaded buffer and reader 0 OPEN on it. -/
def withReader0 (bytes : List Byte) (pos limit : Word64) : State :=
  { State.reset with rbuf := ⟨bytes, true⟩, readers := [⟨.opened, pos, limit, none⟩, Reader.reset] }

/-- The buffer of 95_test_vectors.md, section 2.3. -/
def sampleBuffer : List Byte := [0xA5, 0xC3, 0x0F, 0xF0, 0x12, 0x34, 0x56, 0x78, 0x9A, 0xBC]

/-- P5 step 2: recovery of a FAULTED writer. -/
theorem test_wopen_recovers :
    regRead (after (exec .wopen (after (exec (.write 1 1) State.reset)))) 0x00 = 0x000001 := by decide

/-- Section 2.1: three bits pending, then 64 more. -/
theorem test_write_straddles :
    let w := (after (exec (.write 64 0x0123456789ABCDEF) (withWriter .opened [] 0xA0 3 3))).writer
    (w.bytes, w.acc, w.cnt, w.total) = ([0xA0, 0x24, 0x68, 0xAC, 0xF1, 0x35, 0x79, 0xBD], 0xE0, 3, 67) := by
  decide +kernel

/-- P5 step 1: a write to a CLOSED writer. -/
theorem test_write_closed_faults :
    (regRead (after (exec (.write 1 1) State.reset)) 0x00, (after (exec (.write 1 1) State.reset)).faultLog) =
      (0x040003, 0x10) := by decide

/-- 40_writer.md R75: `WRITES -3, 4` appends `1101`. -/
theorem test_writes_negative :
    let w := (after (exec (.writes 4 0xFFFFFFFFFFFFFFFD) (withWriter .opened [] 0 0 0))).writer
    (w.acc, w.cnt, w.total) = (0xD0, 4, 4) := by decide

/-- Section 2.1: `WRITES 64, 7` appends the bits of -64. -/
theorem test_writes_does_not_range_check :
    (after (exec (.writes 7 64) (withWriter .opened [] 0 0 0))).writer.acc = 0x80 := by decide

/-- Section 2.2: 17 bits, 7 pad bits. -/
theorem test_pademit_pads :
    let s := after (exec .pademit (withWriter .opened [0xAB, 0xCD] 0x80 1 17))
    (regRead s 0x00, s.writer.total, s.out) =
      (0x000002, 17, [.response (.ok 17 [0xAB, 0xCD, 0x80])]) := by decide

/-- Section 2.2: nothing pending, no byte added. -/
theorem test_pademit_adds_no_byte :
    (after (exec .pademit (withWriter .opened [0xAB] 0 0 8))).out = [.response (.ok 8 [0xAB])] := by decide

/-- 41_reader.md R90. -/
theorem test_rload_closes_readers :
    let s := after (exec (.rload [0xA0]) (withReader0 sampleBuffer 5 80))
    (regRead s 0x04, regRead s 0x05, s.readers) = (1, 1, [Reader.reset, Reader.reset]) := by decide

/-- 41_reader.md R92. -/
theorem test_ropen_limits :
    let s := after (exec (.ropen 0 3) (withReader0 [0xA0] 7 8))
    (regRead s 0x10, regRead s 0x11, regRead s 0x12) = (1, 0, 3) := by decide

/-- P5 step 12: a limit beyond the buffer. -/
theorem test_ropen_bad_limit :
    regRead (after (exec (.ropen 0 9) (withReader0 [0xAB] 0 8))) 0x10 = 0x060003 := by decide

/-- Section 2.3: 64 bits from bit 1. -/
theorem test_read_unaligned :
    let s := after (exec (.read 0 64) (withReader0 sampleBuffer 1 80))
    (s.out, regRead s 0x11) = ([.response (.ok 0x4B861FE02468ACF1 [])], 65) := by decide

/-- Section 2.3: the bits exist in the buffer but lie past the limit. -/
theorem test_read_past_the_limit :
    let s := after (exec (.read 0 4) (withReader0 sampleBuffer 0 3))
    (s.out, regRead s 0x10, regRead s 0x11, s.faultLog) =
      ([.response (.fault .streamExhausted)], 0x010003, 0, 2) := by decide

/-- Section 2.3: `READS 0, 7` at bit 8 is -31. -/
theorem test_reads_extends_the_sign :
    (after (exec (.reads 0 7) (withReader0 sampleBuffer 8 80))).out =
      [.response (.ok 0xFFFFFFFFFFFFFFE1 [])] := by decide

/-- Section 2.3: `READS 0, 1` at bit 0 is -1. -/
theorem test_reads_one_bit :
    (after (exec (.reads 0 1) (withReader0 sampleBuffer 0 80))).out =
      [.response (.ok 0xFFFFFFFFFFFFFFFF [])] := by decide

/-- Section 2.3: a skip to the limit. -/
theorem test_skip_to_the_limit :
    regRead (after (exec (.skip 0 40) (withReader0 sampleBuffer 40 80))) 0x11 = 80 := by decide

/-- Section 2.3: no wrap-around. -/
theorem test_skip_does_not_wrap :
    let s := after (exec (.skip 0 0xFFFFFFFFFFFFFFFF) (withReader0 sampleBuffer 1 80))
    (regRead s 0x10, regRead s 0x11) = (0x010003, 1) := by decide

/-- "123456789", 42_crc.md R115. -/
def digits : List Byte := [0x31, 0x32, 0x33, 0x34, 0x35, 0x36, 0x37, 0x38, 0x39]

theorem test_crc32_check_value :
    let s := after (exec (.crc32 digits) State.reset)
    (s.out, regRead s 0x08) = ([.response (.ok 0xCBF43926 [])], 0b001) := by decide +kernel

/-- 42_crc.md R115: `C.expect` is left unchanged. -/
theorem test_crc32_keeps_expect :
    (after (exec (.crc32 []) (State.reset.setCrc ⟨true, 1, true, 7, true⟩))).crc =
      ⟨true, 0, false, 7, false⟩ := by decide

/-- Section 2.4: a mismatch warns. -/
theorem test_crcchk_warns :
    let s := after (exec (.crcchk 0xCBF43927 digits) State.reset)
    (s.out, regRead s 0x08, regRead s 0x0A, s.faultLog) =
      ([.response (.warn 0xCBF43926)], 0b111, 0xCBF43927, 0) := by decide +kernel

/-- 42_crc.md R119: `LEN = 0`, `X = 0`. -/
theorem test_crcchk_empty :
    (after (exec (.crcchk 0 []) State.reset)).out = [.response (.ok 0 [])] := by decide

/-! ## The ports -/

/-- P5 step 8: the word of `WRITE 1, 1` served at the port of a DONE writer. -/
theorem test_step_serves_a_word :
    let s := after (step ((withWriter .done [0xAB] 0 0 8).withFetchWord 80 0x20010000000000000001))
    (regRead s 0x00, regRead s 0x01, s.pending) = (0x040003, 8, []) := by decide

/-- Section 2.5: an illegal word changes only the log. -/
theorem test_step_rejects_a_word :
    let s := after (step ({ State.reset with pending := [.command ⟨0, []⟩] }))
    (s.out, s.faultLog, s.writer) = ([.response (.fault .illegalCommand)], 8, Writer.reset) := by decide

theorem test_step_reset_clears_the_log :
    after (step { (withReader0 sampleBuffer 1 80) with faultLog := 0x56, pending := [.reset] }) = State.reset := by
  decide

theorem test_regRead_unlisted :
    [0x03, 0x0F, 0x13, 0x18, 0x4F].map (regRead (withReader0 sampleBuffer 1 80)) = [0, 0, 0, 0, 0] := by decide

/-- 30_encoding.md R58. -/
theorem test_response_words :
    (Response.fault .badLimit).word = 0x20060000000000000000 ∧ (Response.warn 5).word = 0x10000000000000000005 ∧
    (Response.ok 3 [0xA0]).payload = [0xA0] := by decide

/-- 30_encoding.md R59, R60. -/
theorem test_assembler_line :
    (readLine "WRITES -3, 4 ; x".toList).map (AsmLine.expand 0) = some (.writes 4 0xFFFFFFFFFFFFFFFD) ∧
    assemble 0 [.command (.rload [0xA0, 0xB0]), .ropenAll 1] = [.rload [0xA0, 0xB0], .ropen 1 16] := by decide

/-- The memory views of the buffers. -/
theorem test_cells : Memory.cells [0xA5, 0xC3] = [(0, 0xA5), (1, 0xC3)] := by decide

/-! ## Witnesses: for each statement with hypotheses, a state and operands that meet them together -/

theorem witness_DecodeOfEncodeIsTheCommand :
    WellFormed 16 (.read 15 255) = true ∧ WellFormed 1 (.skip 0 0xFFFFFFFFFFFFFFFF) = true ∧
    WellFormed 2 (.crcchk 7 [1, 2]) = true := by decide

theorem witness_EncodeOfDecodeIsTheWord : decode 2 0xA10B0000000000000000 [] = .ok (.read 1 11) := by decide

theorem witness_IllegalCommands_opcode : ¬ opcodeListed 0xF0000000000000000000 := by
  unfold opcodeListed; decide
theorem witness_IllegalCommands_field :
    opcodeListed 0x10000000000000000001 ∧ ¬ rowSelected 0x10000000000000000001 := by
  unfold opcodeListed rowSelected; decide
theorem witness_IllegalCommands_reader : readerMissing 2 0x92000000000000000008 := by
  unfold readerMissing; decide
theorem witness_IllegalCommands_payload :
    ¬ readerMissing 2 0xD0000000000200000000 ∧ payloadWrong 0xD0000000000200000000 [0x00] := by
  unfold readerMissing payloadWrong; decide
theorem witness_IllegalCommands_legal : ¬ illegal State.reset.numReaders ⟨0x91000000000000000008, []⟩ := by
  unfold illegal opcodeListed rowSelected readerMissing payloadWrong; decide

/-- The reset state with events waiting. -/
def waiting (es : List PortEvent) : State := { State.reset with pending := es }

theorem witness_ResetPutsEveryElementAtItsResetValue :
    (waiting [.reset]).pending = .reset :: [] ∧ step (waiting []) = .next (waiting []) := ⟨rfl, rfl⟩

/-- An event waits behind the reset. -/
theorem witness_ResetKeepsTheHostsSide :
    (waiting [.reset, .regRead 0x0B]).pending = .reset :: [.regRead 0x0B] := rfl

theorem witness_StepRunsTheDecodedCommand :
    (waiting [.command ⟨0x10000000000000000000, []⟩]).pending = .command ⟨0x10000000000000000000, []⟩ :: [] ∧
    decode (waiting []).numReaders 0x10000000000000000000 [] = .ok .wopen ∧
    decode (waiting []).numReaders 0x92000000000000000008 [] = .error .readerNumber := by decide

theorem witness_RegisterReadsFollowTheMap :
    (waiting [.regRead 0x15]).pending = .regRead 0x15 :: [] ∧
    State.reset.readers[1]? = some Reader.reset ∧ (0x15 = 0x11 + 4 * 1) ∧
    State.reset.readers.length ≤ 2 ∧ (0x1A = 0x10 + 4 * 2 + 2) := by decide

theorem witness_IdleBlockKeepsAllState : State.reset.pending = [] := rfl

/-- A state in the middle of a stream, its next command a full-width write. -/
def midStream : State :=
  { withWriter .opened [0xAB] 0xA0 3 11 with pending := [.command ⟨0x2040DEADBEEFCAFEF00D, []⟩] }

theorem witness_StepKeepsTheInvariant : midStream.Inv ∧ ∃ t, step midStream = .next t := ⟨by decide, _, rfl⟩

theorem witness_LegalStatesNeverStop : midStream.Inv ∧ State.reset.Inv ∧ (withReader0 sampleBuffer 80 80).Inv :=
  ⟨by decide, by decide, by decide⟩

theorem witness_EveryCommandAnswersOnce : ∃ t, exec (.crcchk 1 []) State.reset = .next t := ⟨_, rfl⟩

theorem witness_FaultLogRecordsTheFaultsSinceReset :
    (∀ e ∈ (waiting [.command ⟨0x20010000000000000001, []⟩, .regRead 0x0B]).pending, e ≠ .reset) ∧
    (∃ t, Host.Core.run Sys2Proof.core 2
      (waiting [.command ⟨0x20010000000000000001, []⟩, .regRead 0x0B]).resetBlock = .next t) ∧
    ∃ t, exec (.write 1 1) State.reset = .next t := ⟨by decide, ⟨_, rfl⟩, ⟨_, rfl⟩⟩

theorem witness_AppendBitPlacesTheBitAtTotal :
    let w := (withWriter .opened [0xAB] 0xFE 7 15).writer
    leftJustified w ∧ w.total.toNat = 8 * w.bytes.length + w.cnt.val ∧ w.total.toNat + 1 < 2 ^ 64 := by
  unfold leftJustified; decide

theorem witness_MemWriteEqualsItsClosedForm :
    leftJustified (withWriter .opened [] 0xA0 3 3).writer ∧ (1 ≤ 1 ∧ 1 ≤ 64) ∧ (1 ≤ 64 ∧ 64 ≤ 64) := by
  unfold leftJustified; decide

/-- A writer whose buffer holds one byte and is full. -/
def fullWriter : State := { withWriter .opened [0xAB] 0 0 8 with cfg := ⟨some 1, 0⟩ }

theorem witness_WriteAppendsTheLowBits :
    leftJustified fullWriter.writer ∧
    (writeLegal (withWriter .opened [] 0xA0 3 3) 1 ∧ writeLegal (withWriter .opened [] 0xA0 3 3) 64) ∧
    State.reset.writer.state ≠ .opened ∧
    (fullWriter.writer.state = .opened ∧ (0 < 1 ∨ 64 < 0) ∧ (65 < 1 ∨ 64 < 65)) ∧
    (2 ^ 64 ≤ (withWriter .opened [] 0 7 0xFFFFFFFFFFFFFFFF).writer.total.toNat + 1) ∧
    ¬ fitsBuffer fullWriter.cfg ((fullWriter.writer.total.toNat + 1 + 7) / 8) := by
  refine ⟨by unfold leftJustified; decide, ⟨⟨by decide, by decide, by decide, by decide, ?_⟩,
    ⟨by decide, by decide, by decide, by decide, ?_⟩⟩, by decide, by decide, by decide, ?_⟩
  · intro m h; cases h
  · intro m h; cases h
  · intro h; exact absurd (h 1 rfl) (by decide)

theorem witness_WritesAppendsTheTwosComplement :
    leftJustified (withWriter .opened [] 0xA0 3 3).writer ∧
    ((-2 ^ 63 : Int) ≤ -2 ^ 63 ∧ (-2 ^ 63 : Int) < 2 ^ 63) ∧ ((-2 ^ 63 : Int) ≤ 2 ^ 63 - 1 ∧ (2 ^ 63 - 1 : Int) < 2 ^ 63) ∧
    (2 ^ (7 - 1) ≤ (64 : Int) ∧ (-65 : Int) < -2 ^ (7 - 1)) := by
  unfold leftJustified; decide

theorem witness_PademitEmitsTheStream :
    (midStream.writer.Inv midStream.cfg ∧ midStream.writer.state = .opened) ∧
    (State.reset.writer.Inv State.reset.cfg ∧ State.reset.writer.state ≠ .opened) := by decide

theorem witness_WritesStoreAtTheAppendPosition :
    let s := withWriter .opened [0xAB] 0xA0 3 11
    leftJustified s.writer ∧ s.writer.total.toNat = 8 * s.writer.bytes.length + s.writer.cnt.val ∧
    writeLegal s (64#8).toNat ∧ writeLegal s (1#8).toNat ∧ (∃ t, exec (.writes 64 5) s = .next t) ∧
    ∃ t, exec (.write 1 5) s = .next t := by
  refine ⟨by unfold leftJustified; decide, by decide, ⟨by decide, by decide, by decide, by decide, ?_⟩,
    ⟨by decide, by decide, by decide, by decide, ?_⟩, ⟨_, rfl⟩, _, rfl⟩ <;> (intro m h; cases h)

theorem witness_CommittedBytesStayUntilWopen :
    (∃ t, exec .pademit midStream = .next t) ∧ Instr.pademit ≠ .wopen := ⟨⟨_, rfl⟩, by decide⟩

/-- Fields of the smallest and the largest width. -/
def sampleFields : List Field := [(false, 1, 1), (true, 64, 0xFFFFFFFFFFFFFFFD), (false, 33, 0x1FFFFFFFF)]

theorem witness_EmittedStreamIsTheConcatenation :
    legalFields sampleFields ∧ streamLength sampleFields < 2 ^ 64 ∧
    fitsBuffer State.reset.cfg ((streamLength sampleFields + 7) / 8) := by
  refine ⟨by simp [legalFields, sampleFields], ?_, ?_⟩
  · simp [streamLength, sampleFields]
  · intro m h; cases h

theorem witness_RloadReplacesTheBuffer :
    [0xA0#8].length ≤ State.reset.cfg.rbufMaxBytes ∧ fullWriter.cfg.rbufMaxBytes < [0xA0#8].length := by decide

theorem witness_RopenConstructsTheReader :
    let s := withReader0 [0xAB] 0 8
    s.readers[(1#4).toNat]? = some Reader.reset ∧ s.rbuf.loaded = true ∧ 8 ≤ 8 * s.rbuf.bytes.length ∧
    8 * s.rbuf.bytes.length < 9 ∧ State.reset.readers[(1#4).toNat]? = some Reader.reset ∧
    State.reset.rbuf.loaded = false := by decide

theorem witness_MissingReadersAreIllegal : State.reset.readers.length ≤ (2#4).toNat := by decide

/-- The reader of `withReader0 sampleBuffer 16 80`: exactly 64 bits left. -/
theorem witness_ReadReturnsTheFieldAtTheCursor :
    let s := withReader0 sampleBuffer 16 80
    s.readers[(0#4).toNat]? = some ⟨.opened, 16, 80, none⟩ ∧ (80#64).toNat ≤ 8 * s.rbuf.bytes.length ∧
    ((16#64).toNat + 64 ≤ (80#64).toNat ∧ (16#64).toNat + 1 ≤ (80#64).toNat) ∧
    ((80#64).toNat < (17#64).toNat + 64) ∧ Reader.reset.state ≠ .opened ∧ (0 < 1 ∨ 64 < 0) ∧ (65 < 1 ∨ 64 < 65) := by
  decide

/-- The same states serve `READS`. -/
theorem witness_ReadsReturnsTheSignedField :
    let s := withReader0 sampleBuffer 16 80
    s.readers[(0#4).toNat]? = some ⟨.opened, 16, 80, none⟩ ∧ (80#64).toNat ≤ 8 * s.rbuf.bytes.length ∧
    ((16#64).toNat + 64 ≤ (80#64).toNat ∧ (16#64).toNat + 1 ≤ (80#64).toNat) ∧
    ((80#64).toNat < (17#64).toNat + 64) ∧ s.readers[(1#4).toNat]? = some Reader.reset ∧
    Reader.reset.state ≠ .opened ∧ 1 ≤ (1#8).toNat := by decide

theorem witness_SkipMovesTheCursorForward :
    let s := withReader0 sampleBuffer 40 80
    s.readers[(0#4).toNat]? = some ⟨.opened, 40, 80, none⟩ ∧ (40#64).toNat + (40#64).toNat ≤ (80#64).toNat ∧
    (80#64).toNat < (40#64).toNat + (41#64).toNat ∧ Reader.reset.state ≠ .opened := by decide

theorem witness_MemReadIsTheBitsMsbFirst :
    1 ≤ 64 ∧ 16 + 64 ≤ 8 * sampleBuffer.length ∧ 8 * sampleBuffer.length < 17 + 64 := by decide

theorem witness_SkipsCompose :
    (withReader0 sampleBuffer 40 80).readers[(0#4).toNat]? = some ⟨.opened, 40, 80, none⟩ ∧
    (40#64).toNat + (10#64).toNat + (30#64).toNat ≤ (80#64).toNat := by decide

theorem witness_ReadAndReadsAgree :
    let s := withReader0 sampleBuffer 8 80
    ∃ t u, exec (.read 0 7) s = .next t ∧ exec (.reads 0 7) s = .next u ∧ t.out = answered s 0x61 [] ∧
      u.out = answered s 0xFFFFFFFFFFFFFFE1 [] := ⟨_, _, rfl, rfl, by decide, by decide⟩

theorem witness_SignedFieldsReadBackModuloTheWidth :
    let w := (withWriter .opened [0xAB] 0xA0 3 11).writer
    leftJustified w ∧ w.total.toNat = 8 * w.bytes.length + w.cnt.val ∧ w.total.toNat + 64 < 2 ^ 64 ∧
    ((-2 ^ 63 : Int) ≤ -2 ^ 63 ∧ (2 ^ 63 - 1 : Int) < 2 ^ 63) := by
  unfold leftJustified; decide

theorem witness_ReadersReturnTheWrittenFields :
    legalFields sampleFields ∧ (0#4).toNat < State.reset.readers.length ∧
    (packBits (streamBits sampleFields)).length ≤ State.reset.cfg.rbufMaxBytes ∧
    streamLength sampleFields ≤ (98#64).toNat ∧ (98#64).toNat = streamLength sampleFields ∧
    (104#64).toNat ≤ 8 * (packBits (streamBits sampleFields)).length ∧ (1 ≤ (64#8).toNat ∧ (64#8).toNat ≤ 64) := by
  have h : (packBits (streamBits sampleFields)).length = 13 := by
    simp [packBits, streamBits, sampleFields, Field.bits, bitsOf]
  rw [h]
  exact ⟨by simp [legalFields, sampleFields], by decide, by decide, by decide, by decide, by decide, by decide⟩

/-- A state that no run reaches: the limit lies past the buffer's end, and a read stops. -/
theorem witness_ChecksumOutcomesAreAdvisory :
    unitOf (.read 0 8) ≠ .crc ∧ (∃ t, exec (.read 0 8) (withReader0 sampleBuffer 0 80) = .next t) ∧
    exec (.read 0 8) (withReader0 [] 0 8) = .fault .rbufOutOfRange ∧
    unitOf (.crc32 []) = .crc ∧ ∃ t, exec (.crc32 []) State.reset = .next t :=
  ⟨by decide, ⟨_, rfl⟩, rfl, rfl, _, rfl⟩

theorem witness_FaultsArePrecise :
    ∃ t, exec (.skip 1 0) State.reset = .next t ∧ t.out = State.reset.out ++ [.response (.fault .badState)] :=
  ⟨_, rfl, by decide⟩

/-- A FAULTED writer and a FAULTED reader 0. -/
def faultedUnits : State :=
  { State.reset with
    writer := ⟨.faulted, [0xAB], 0, 0, 8, some .illegalWidth⟩
    rbuf := ⟨[0xAB], true⟩
    readers := [⟨.faulted, 5, 8, some .streamExhausted⟩, Reader.reset] }

theorem witness_FaultedUnitsRefuseAllWork :
    faultedUnits.Inv ∧ faultedUnits.writer.state = .faulted ∧
    faultedUnits.readers[(0#4).toNat]? = some ⟨.faulted, 5, 8, some .streamExhausted⟩ ∧
    (∃ t, exec .wopen faultedUnits = .next t) ∧ (∃ t, exec (.ropen 0 8) faultedUnits = .next t) ∧
    ∃ t, step { faultedUnits with pending := [.regRead 0x10] } = .next t :=
  ⟨by decide, by decide, by decide, ⟨_, rfl⟩, ⟨_, rfl⟩, _, rfl⟩

theorem witness_CommandsChangeOnlyTheirUnit :
    (∃ t, exec (.crc32 []) midStream = .next t) ∧ unitOf (.crc32 []) ≠ .writer ∧
    (∃ t, exec (.ropen 0 0) midStream = .next t) ∧ unitOf (.ropen 0 0) ≠ .crc ∧
    (∀ r, unitOf (.ropen 0 0) = .reader r → r.toNat ≠ 1) :=
  ⟨⟨_, rfl⟩, by decide, ⟨_, rfl⟩, by decide, by decide⟩

theorem witness_IndependentCommandsCommute :
    independent (unitOf (.write 1 1)) (unitOf (.skip 0 1)) ∧ independent (unitOf (.read 0 1)) (unitOf (.read 1 1)) ∧
    (∃ s₁ s₂, exec (.write 1 1) faultedUnits = .next s₁ ∧ exec (.skip 0 1) s₁ = .next s₂) := by
  refine ⟨?_, ?_, _, _, rfl, rfl⟩ <;> unfold independent <;> decide

/-! ## The printed table -/

/-- Entries 0 to 31 of the table as 42_crc.md R111 prints it. -/
def printedTable0 : List CrcWord :=
  [
    0x00000000, 0x77073096, 0xEE0E612C, 0x990951BA, 0x076DC419, 0x706AF48F, 0xE963A535, 0x9E6495A3,
    0x0EDB8832, 0x79DCB8A4, 0xE0D5E91E, 0x97D2D988, 0x09B64C2B, 0x7EB17CBD, 0xE7B82D07, 0x90BF1D91,
    0x1DB71064, 0x6AB020F2, 0xF3B97148, 0x84BE41DE, 0x1ADAD47D, 0x6DDDE4EB, 0xF4D4B551, 0x83D385C7,
    0x136C9856, 0x646BA8C0, 0xFD62F97A, 0x8A65C9EC, 0x14015C4F, 0x63066CD9, 0xFA0F3D63, 0x8D080DF5 ]

/-- Entries 32 to 63 of the table as 42_crc.md R111 prints it. -/
def printedTable1 : List CrcWord :=
  [
    0x3B6E20C8, 0x4C69105E, 0xD56041E4, 0xA2677172, 0x3C03E4D1, 0x4B04D447, 0xD20D85FD, 0xA50AB56B,
    0x35B5A8FA, 0x42B2986C, 0xDBBBC9D6, 0xACBCF940, 0x32D86CE3, 0x45DF5C75, 0xDCD60DCF, 0xABD13D59,
    0x26D930AC, 0x51DE003A, 0xC8D75180, 0xBFD06116, 0x21B4F4B5, 0x56B3C423, 0xCFBA9599, 0xB8BDA50F,
    0x2802B89E, 0x5F058808, 0xC60CD9B2, 0xB10BE924, 0x2F6F7C87, 0x58684C11, 0xC1611DAB, 0xB6662D3D ]

/-- Entries 64 to 95 of the table as 42_crc.md R111 prints it. -/
def printedTable2 : List CrcWord :=
  [
    0x76DC4190, 0x01DB7106, 0x98D220BC, 0xEFD5102A, 0x71B18589, 0x06B6B51F, 0x9FBFE4A5, 0xE8B8D433,
    0x7807C9A2, 0x0F00F934, 0x9609A88E, 0xE10E9818, 0x7F6A0DBB, 0x086D3D2D, 0x91646C97, 0xE6635C01,
    0x6B6B51F4, 0x1C6C6162, 0x856530D8, 0xF262004E, 0x6C0695ED, 0x1B01A57B, 0x8208F4C1, 0xF50FC457,
    0x65B0D9C6, 0x12B7E950, 0x8BBEB8EA, 0xFCB9887C, 0x62DD1DDF, 0x15DA2D49, 0x8CD37CF3, 0xFBD44C65 ]

/-- Entries 96 to 127 of the table as 42_crc.md R111 prints it. -/
def printedTable3 : List CrcWord :=
  [
    0x4DB26158, 0x3AB551CE, 0xA3BC0074, 0xD4BB30E2, 0x4ADFA541, 0x3DD895D7, 0xA4D1C46D, 0xD3D6F4FB,
    0x4369E96A, 0x346ED9FC, 0xAD678846, 0xDA60B8D0, 0x44042D73, 0x33031DE5, 0xAA0A4C5F, 0xDD0D7CC9,
    0x5005713C, 0x270241AA, 0xBE0B1010, 0xC90C2086, 0x5768B525, 0x206F85B3, 0xB966D409, 0xCE61E49F,
    0x5EDEF90E, 0x29D9C998, 0xB0D09822, 0xC7D7A8B4, 0x59B33D17, 0x2EB40D81, 0xB7BD5C3B, 0xC0BA6CAD ]

/-- Entries 128 to 159 of the table as 42_crc.md R111 prints it. -/
def printedTable4 : List CrcWord :=
  [
    0xEDB88320, 0x9ABFB3B6, 0x03B6E20C, 0x74B1D29A, 0xEAD54739, 0x9DD277AF, 0x04DB2615, 0x73DC1683,
    0xE3630B12, 0x94643B84, 0x0D6D6A3E, 0x7A6A5AA8, 0xE40ECF0B, 0x9309FF9D, 0x0A00AE27, 0x7D079EB1,
    0xF00F9344, 0x8708A3D2, 0x1E01F268, 0x6906C2FE, 0xF762575D, 0x806567CB, 0x196C3671, 0x6E6B06E7,
    0xFED41B76, 0x89D32BE0, 0x10DA7A5A, 0x67DD4ACC, 0xF9B9DF6F, 0x8EBEEFF9, 0x17B7BE43, 0x60B08ED5 ]

/-- Entries 160 to 191 of the table as 42_crc.md R111 prints it. -/
def printedTable5 : List CrcWord :=
  [
    0xD6D6A3E8, 0xA1D1937E, 0x38D8C2C4, 0x4FDFF252, 0xD1BB67F1, 0xA6BC5767, 0x3FB506DD, 0x48B2364B,
    0xD80D2BDA, 0xAF0A1B4C, 0x36034AF6, 0x41047A60, 0xDF60EFC3, 0xA867DF55, 0x316E8EEF, 0x4669BE79,
    0xCB61B38C, 0xBC66831A, 0x256FD2A0, 0x5268E236, 0xCC0C7795, 0xBB0B4703, 0x220216B9, 0x5505262F,
    0xC5BA3BBE, 0xB2BD0B28, 0x2BB45A92, 0x5CB36A04, 0xC2D7FFA7, 0xB5D0CF31, 0x2CD99E8B, 0x5BDEAE1D ]

/-- Entries 192 to 223 of the table as 42_crc.md R111 prints it. -/
def printedTable6 : List CrcWord :=
  [
    0x9B64C2B0, 0xEC63F226, 0x756AA39C, 0x026D930A, 0x9C0906A9, 0xEB0E363F, 0x72076785, 0x05005713,
    0x95BF4A82, 0xE2B87A14, 0x7BB12BAE, 0x0CB61B38, 0x92D28E9B, 0xE5D5BE0D, 0x7CDCEFB7, 0x0BDBDF21,
    0x86D3D2D4, 0xF1D4E242, 0x68DDB3F8, 0x1FDA836E, 0x81BE16CD, 0xF6B9265B, 0x6FB077E1, 0x18B74777,
    0x88085AE6, 0xFF0F6A70, 0x66063BCA, 0x11010B5C, 0x8F659EFF, 0xF862AE69, 0x616BFFD3, 0x166CCF45 ]

/-- Entries 224 to 255 of the table as 42_crc.md R111 prints it. -/
def printedTable7 : List CrcWord :=
  [
    0xA00AE278, 0xD70DD2EE, 0x4E048354, 0x3903B3C2, 0xA7672661, 0xD06016F7, 0x4969474D, 0x3E6E77DB,
    0xAED16A4A, 0xD9D65ADC, 0x40DF0B66, 0x37D83BF0, 0xA9BCAE53, 0xDEBB9EC5, 0x47B2CF7F, 0x30B5FFE9,
    0xBDBDF21C, 0xCABAC28A, 0x53B39330, 0x24B4A3A6, 0xBAD03605, 0xCDD70693, 0x54DE5729, 0x23D967BF,
    0xB3667A2E, 0xC4614AB8, 0x5D681B02, 0x2A6F2B94, 0xB40BBE37, 0xC30C8EA1, 0x5A05DF1B, 0x2D02EF8D ]

theorem test_crcTable_as_printed :
    (List.range 256).map (fun i => crcTable (BitVec.ofNat 8 i)) =
      printedTable0 ++ printedTable1 ++ printedTable2 ++ printedTable3 ++ printedTable4 ++ printedTable5 ++
        printedTable6 ++ printedTable7 := by decide +kernel

end Sys2Proof.Tests
end

section
/-! SUPPORT. What a command, a port event and a whole run can do, each said once; then the statements about reset, the
register reads and `FAULT_LOG` (spec 10_state.md R20, R21, R23). -/

namespace Sys2Proof.Machine

/-! ## The step, from what waits -/

theorem step_of_idle {s : State} (h : s.pending = []) : step s = .next s := by
  simp [step, State.fetchEvent, h]

theorem step_of_pending {s : State} {e : PortEvent} {rest : List PortEvent} (h : s.pending = e :: rest) :
    step s = serveEvent e { s with pending := rest } := by
  simp [step, State.fetchEvent, h]

/-! ## What a command does when it goes on -/

/-- Everything a command can do to the state when the machine goes on: take a fault, or replace one unit and respond.
Only the first case touches `FAULT_LOG`. -/
inductive CommandEffect (s : State) : State → Prop
  | faulted (u : FaultUnit) (c : FaultCode) : CommandEffect s (s.takeFault u c)
  | streamed (w : Writer) (v : Word64) (p : List Byte) : CommandEffect s ((s.setWriter w).respond (.ok v p))
  | loaded (p : List Byte) : CommandEffect s ((s.loadBuffer p).respond (.ok 0 []))
  | moved (r : Nat) (f : Reader → Reader) (v : Word64) :
    CommandEffect s ((s.modifyReader r f).respond (.ok v []))
  | computed (c : CrcStatus) (v : Word64) : CommandEffect s ((s.setCrc c).respond (.ok v []))
  | warned (c : CrcStatus) (v : Word64) : CommandEffect s ((s.setCrc c).respond (.warn v))

section
variable {s t : State}

theorem appendBits_effect {n v : Nat} (h : appendBits n v s = .next t) : CommandEffect s t := by
  rcases appendBits_cases n v s with ⟨c, -, e⟩ | ⟨-, e⟩ <;> cases e.symm.trans h
  · exact .faulted ..
  · exact .streamed ..

theorem execPademit_effect (h : execPademit s = .next t) : CommandEffect s t := by
  rcases execPademit_cases s with ⟨c, -, e⟩ | ⟨-, e⟩ <;> cases e.symm.trans h
  · exact .faulted ..
  · exact .streamed ..

theorem execRload_effect {p : List Byte} (h : execRload p s = .next t) : CommandEffect s t := by
  rcases execRload_cases p s with ⟨c, -, e⟩ | ⟨-, e⟩ <;> cases e.symm.trans h
  · exact .faulted ..
  · exact .loaded ..

theorem execRopen_effect {r : BitVec 4} {v : Word64} (h : execRopen r v s = .next t) : CommandEffect s t := by
  rcases execRopen_cases r v s with ⟨-, e⟩ | ⟨rd, -, ⟨c, -, e⟩ | ⟨-, e⟩⟩ <;> cases e.symm.trans h
  · exact .faulted ..
  · exact .faulted ..
  · exact .moved ..

theorem fetchBits_effect {r : BitVec 4} {n : Nat} {extend : Nat → Word64} (h : fetchBits r n extend s = .next t) :
    CommandEffect s t := by
  rcases fetchBits_cases r n extend s with ⟨-, e⟩ | ⟨rd, -, ⟨c, -, e⟩ | ⟨-, ⟨v, -, e⟩ | ⟨-, e⟩⟩⟩ <;>
    cases e.symm.trans h
  · exact .faulted ..
  · exact .faulted ..
  · exact .moved ..

theorem execSkip_effect {r : BitVec 4} {v : Word64} (h : execSkip r v s = .next t) : CommandEffect s t := by
  rcases execSkip_cases r v s with ⟨-, e⟩ | ⟨rd, -, ⟨c, -, e⟩ | ⟨-, e⟩⟩ <;> cases e.symm.trans h
  · exact .faulted ..
  · exact .faulted ..
  · exact .moved ..

theorem execCrcchk_effect {x : CrcWord} {p : List Byte} (h : execCrcchk x p s = .next t) : CommandEffect s t := by
  cases h
  split
  · exact .computed ..
  · exact .warned ..

theorem exec_effect {i : Instr} (h : exec i s = .next t) : CommandEffect s t := by
  cases i with
  | wopen => cases h; exact .streamed ..
  | write n v => exact appendBits_effect h
  | writes n v => exact appendBits_effect h
  | pademit => exact execPademit_effect h
  | rload p => exact execRload_effect h
  | ropen r v => exact execRopen_effect h
  | read r n => exact fetchBits_effect h
  | reads r n => exact fetchBits_effect h
  | skip r v => exact execSkip_effect h
  | crc32 p => cases h; exact .computed ..
  | crcchk x p => exact execCrcchk_effect h

/-- A rejected word is no exception: it takes a fault (60_exceptions.md R136). -/
theorem runCommand_effect {c : Command} (h : runCommand c s = .next t) : CommandEffect s t := by
  unfold runCommand at h
  split at h
  · exact exec_effect h
  · cases h; exact .faulted ..

end

/-! ## What one output of the block adds to `FAULT_LOG` (10_state.md R20) -/

/-- The bits of `FAULT_LOG` that the event behind an output sets: the code's bit for a fault, none for the rest. -/
def PortOutput.logBits : PortOutput → Word64
  | .response (.fault c) => c.logBit
  | .response (.ok _ _) => 0
  | .response (.warn _) => 0
  | .regValue _ _ => 0

/-- From `s` to `t` one output left the block, no waiting event changed, and `FAULT_LOG` took up the output's fault. -/
structure Delivers (s t : State) (o : PortOutput) : Prop where
  pending_eq : t.pending = s.pending
  out_eq : t.out = s.out ++ [o]
  log_eq : t.faultLog = s.faultLog ||| o.logBits

/-- A response that is no fault, sent from a state with the same log and the same host's side. -/
theorem Delivers.of_respond {s u : State} {r : Response} (hpending : u.pending = s.pending) (hout : u.out = s.out)
    (hlog : u.faultLog = s.faultLog) (hr : PortOutput.logBits (.response r) = 0) :
    Delivers s (u.respond r) (.response r) :=
  ⟨hpending, by simp [hout], by simp [hlog, hr]⟩

theorem CommandEffect.delivers {s t : State} (h : CommandEffect s t) : ∃ o, Delivers s t o := by
  cases h with
  | faulted u c => exact ⟨.response (.fault c), by simp, by simp, by simp [PortOutput.logBits]⟩
  | streamed w v p => exact ⟨_, .of_respond rfl rfl rfl rfl⟩
  | loaded p => exact ⟨_, .of_respond rfl rfl rfl rfl⟩
  | moved r f v => exact ⟨_, .of_respond rfl rfl rfl rfl⟩
  | computed c v => exact ⟨_, .of_respond rfl rfl rfl rfl⟩
  | warned c v => exact ⟨_, .of_respond rfl rfl rfl rfl⟩

/-- Every event but a reset delivers one output. -/
theorem serveEvent_delivers {s t : State} {e : PortEvent} (hne : e ≠ .reset) (h : serveEvent e s = .next t) :
    ∃ o, Delivers s t o := by
  cases e with
  | command c => exact (runCommand_effect h).delivers
  | regRead a => cases h; exact ⟨.regValue a (regRead s a), by simp, by simp, by simp [PortOutput.logBits]⟩
  | reset => exact absurd rfl hne

/-- No delivery clears a bit of `FAULT_LOG`. -/
theorem Delivers.log_kept {s t : State} {o : PortOutput} (h : Delivers s t o) :
    s.faultLog &&& t.faultLog = s.faultLog := by
  rw [h.log_eq]
  ext j
  simpa using Or.inl

theorem FaultCode.code_pos (c : FaultCode) : 0 < c.code := by cases c <;> decide
theorem FaultCode.code_lt (c : FaultCode) : c.code < 7 := by cases c <;> decide
theorem FaultCode.code_injective : Function.Injective FaultCode.code := by
  intro c d h
  revert h
  cases c <;> cases d <;> decide

/-- The bit of a fault in `FAULT_LOG` is the one at its code. -/
theorem FaultCode.getLsbD_logBit (c : FaultCode) (j : Nat) : c.logBit.getLsbD j = true ↔ c.code = j := by
  have := c.code_lt
  simp [logBit, BitVec.getLsbD_shiftLeft, BitVec.getLsbD_one]
  omega

theorem PortOutput.getLsbD_logBits (o : PortOutput) (j : Nat) :
    o.logBits.getLsbD j = true ↔ ∃ c : FaultCode, c.code = j ∧ .response (.fault c) = o := by
  match o with
  | .response (.fault c) => simp [logBits, FaultCode.getLsbD_logBit]
  | .response (.ok _ _) => simp [logBits]
  | .response (.warn _) => simp [logBits]
  | .regValue _ _ => simp [logBits]

/-! ## `FAULT_LOG` over a run without reset -/

/-- A property that every step keeps holds after any number of steps. -/
theorem run_keeps {M : Host.Core} {P : M.State → Prop} (keep : ∀ s t, P s → M.step s = .next t → P t) (n : Nat) :
    ∀ s t, P s → M.run n s = .next t → P t := by
  induction n with
  | zero => intro s t hs h; cases h; exact hs
  | succ n ih =>
    intro s t hs h
    unfold Host.Core.run at h
    split at h
    · next u hu => exact ih u t (keep s u hs hu) h
    · cases h
    · cases h

/-- The block has delivered `before`, then some outputs whose faults are exactly what `FAULT_LOG` shows, and no reset
waits. -/
def LogsFaultsSince (before : List PortOutput) (s : State) : Prop :=
  (∀ e ∈ s.pending, e ≠ .reset) ∧
  ∃ since, s.out = before ++ since ∧
    ∀ j, s.faultLog.getLsbD j = true ↔ ∃ c : FaultCode, c.code = j ∧ .response (.fault c) ∈ since

theorem logsFaultsSince_resetBlock {s : State} (h : ∀ e ∈ s.pending, e ≠ .reset) :
    LogsFaultsSince s.out s.resetBlock :=
  ⟨h, [], by simp, by simp⟩

theorem Delivers.logsFaultsSince {before : List PortOutput} {s t : State} {o : PortOutput} (h : Delivers s t o)
    (hs : LogsFaultsSince before s) : LogsFaultsSince before t := by
  obtain ⟨noReset, since, hout, hlog⟩ := hs
  refine ⟨h.pending_eq ▸ noReset, since ++ [o], by simp [h.out_eq, hout], fun j => ?_⟩
  simp [h.log_eq, hlog, PortOutput.getLsbD_logBits, and_or_left, exists_or]

theorem step_keeps_logsFaultsSince {before : List PortOutput} (s t : State) (hs : LogsFaultsSince before s)
    (h : step s = .next t) : LogsFaultsSince before t := by
  rcases step_cases s with ⟨hp, -⟩ | ⟨e, rest, hp, -⟩
  · rw [step_of_idle hp] at h
    cases h; exact hs
  · rw [step_of_pending hp] at h
    obtain ⟨noReset, hlog⟩ := hs
    rw [hp, List.forall_mem_cons] at noReset
    obtain ⟨hne, hrest⟩ := noReset
    obtain ⟨o, ho⟩ := serveEvent_delivers hne h
    exact ho.logsFaultsSince ⟨hrest, hlog⟩

/-! ## The register map (10_state.md R21) -/

section
open BitVec (extractLsb'_append_eq_of_le extractLsb'_append_eq_right extractLsb'_append_eq_left)

theorem wStatus_fields (w : Writer) :
    (wStatus w).extractLsb' 0 2 = w.state.code ∧ ((wStatus w).extractLsb' 2 3).toNat = w.cnt.val ∧
    (wStatus w).extractLsb' 5 3 = 0 ∧ (wStatus w).extractLsb' 8 8 = w.acc ∧
    (wStatus w).extractLsb' 16 8 = faultField w.fault ∧ (wStatus w).extractLsb' 24 40 = 0 := by
  unfold wStatus
  refine ⟨?_, ?_, ?_, ?_, ?_, ?_⟩
  · rw [extractLsb'_append_eq_right]
  · rw [extractLsb'_append_eq_of_le (by decide), extractLsb'_append_eq_right]
    exact Nat.mod_eq_of_lt w.cnt.isLt
  · iterate 2 rw [extractLsb'_append_eq_of_le (by decide)]
    rw [extractLsb'_append_eq_right]; rfl
  · iterate 3 rw [extractLsb'_append_eq_of_le (by decide)]
    rw [extractLsb'_append_eq_right]
  · iterate 4 rw [extractLsb'_append_eq_of_le (by decide)]
    rw [extractLsb'_append_eq_right]
  · iterate 4 rw [extractLsb'_append_eq_of_le (by decide)]
    rw [extractLsb'_append_eq_left]; rfl

theorem rStatus_fields (rd : Reader) :
    (rStatus rd).extractLsb' 0 2 = rd.state.code ∧ (rStatus rd).extractLsb' 2 14 = 0 ∧
    (rStatus rd).extractLsb' 16 8 = faultField rd.fault ∧ (rStatus rd).extractLsb' 24 40 = 0 := by
  unfold rStatus
  refine ⟨?_, ?_, ?_, ?_⟩
  · rw [extractLsb'_append_eq_right]
  · rw [extractLsb'_append_eq_of_le (by decide), extractLsb'_append_eq_right]; rfl
  · iterate 2 rw [extractLsb'_append_eq_of_le (by decide)]
    rw [extractLsb'_append_eq_right]
  · iterate 2 rw [extractLsb'_append_eq_of_le (by decide)]
    rw [extractLsb'_append_eq_left]; rfl

end

theorem rbufStatus_toNat (b : ReaderBuffer) : (rbufStatus b).toNat = b.loaded.toNat := by
  rw [rbufStatus, BitVec.toNat_append]
  simp

theorem crcStatus_toNat (c : CrcStatus) :
    (crcStatus c).toNat = c.valid.toNat + 2 * c.checked.toNat + 4 * c.mismatch.toNat := by
  unfold crcStatus
  cases c.valid <;> cases c.checked <;> cases c.mismatch <;> decide

theorem regRead_of_ge (s : State) {a : Nat} (ha : 0x10 ≤ a) :
    regRead s a = readerRegister s ((a - 0x10) / 4) ((a - 0x10) % 4) := by
  unfold regRead
  split
  case h_10 => exact if_neg (by omega)
  all_goals omega

/-- The registers of reader `r` stand at `0x10 + 4·r` and the three numbers after it. -/
theorem regRead_reader (s : State) (r j : Nat) (hj : j < 4) :
    regRead s (0x10 + 4 * r + j) = readerRegister s r j := by
  rw [regRead_of_ge s (by omega)]
  congr 1 <;> omega

theorem readerRegister_of_missing {s : State} {r : Nat} (h : s.readers.length ≤ r) (j : Nat) :
    readerRegister s r j = 0 := by
  simp [readerRegister, State.reader?, h]

theorem readerRegister_of_present {s : State} {r : Nat} {rd : Reader} (h : s.readers[r]? = some rd) :
    readerRegister s r 0 = rStatus rd ∧ readerRegister s r 1 = rd.pos ∧ readerRegister s r 2 = rd.limit := by
  simp [readerRegister, State.reader?, h]

/-- The fourth number of every reader is in no map. -/
theorem readerRegister_three (s : State) (r : Nat) : readerRegister s r 3 = 0 := by
  unfold readerRegister
  split <;> rfl

theorem regRead_unlisted (s : State) {a : Nat} (h : a ∈ [0x03, 0x06, 0x07, 0x0C, 0x0D, 0x0E, 0x0F]) :
    regRead s a = 0 := by
  simp only [List.mem_cons, List.not_mem_nil, or_false] at h
  rcases h with rfl | rfl | rfl | rfl | rfl | rfl | rfl <;> rfl

theorem regRead_registerValue (s : State) (a : Nat) : Spec.registerValue s a (regRead s a) := by
  refine ⟨?status, ?total, ?len, ?rbuf, ?rbufLen, ?crc, ?result, ?expect, ?log, ?reader, regRead_unlisted s,
    ?gap, ?missing⟩
  case status => rintro rfl; exact wStatus_fields s.writer
  case total => rintro rfl; rfl
  case len => rintro rfl; rfl
  case rbuf => rintro rfl; exact rbufStatus_toNat s.rbuf
  case rbufLen => rintro rfl; rfl
  case crc => rintro rfl; exact crcStatus_toNat s.crc
  case result => rintro rfl; exact BitVec.toNat_setWidth_of_le (by decide)
  case expect => rintro rfl; exact BitVec.toNat_setWidth_of_le (by decide)
  case log => rintro rfl; rfl
  case reader =>
    intro r rd hrd
    obtain ⟨hstatus, hpos, hlimit⟩ := readerRegister_of_present hrd
    refine ⟨?_, ?_, ?_⟩ <;> rintro rfl
    · rw [show 0x10 + 4 * r = 0x10 + 4 * r + 0 from rfl, regRead_reader s r 0 (by decide), hstatus]
      exact rStatus_fields rd
    · rw [show 0x11 + 4 * r = 0x10 + 4 * r + 1 by omega, regRead_reader s r 1 (by decide), hpos]
    · rw [show 0x12 + 4 * r = 0x10 + 4 * r + 2 by omega, regRead_reader s r 2 (by decide), hlimit]
  case gap =>
    rintro r rfl
    rw [show 0x13 + 4 * r = 0x10 + 4 * r + 3 by omega, regRead_reader s r 3 (by decide), readerRegister_three]
  case missing =>
    rintro r j hr hj rfl
    rw [regRead_reader s r j (by omega), readerRegister_of_missing hr]

/-! ## The statements -/

/-- Settles O7: the fields of `State.reset` are those of the units' reset values. -/
theorem resetHasTheTabledValues : Obligations.ResetHasTheTabledValues :=
  ⟨rfl, rfl, rfl, rfl, fun _ h => List.eq_of_mem_replicate h, rfl, rfl⟩

/-- Settles O11: the value is `regRead` of the state, in which the waiting events play no part. -/
theorem registerReadsFollowTheMap : Obligations.RegisterReadsFollowTheMap := by
  intro s a rest hp
  exact ⟨regRead { s with pending := rest } a, step_of_pending hp,
    regRead_registerValue { s with pending := rest } a⟩

/-- Settles O16: `LogsFaultsSince` holds right after the reset and every step keeps it; a command only adds bits. -/
theorem faultLogRecordsTheFaultsSinceReset : Obligations.FaultLogRecordsTheFaultsSinceReset := by
  refine ⟨fun s t steps noReset h => ?_, fun i s t h => ?_⟩
  · obtain ⟨-, since, hout, hlog⟩ :=
      run_keeps (M := Sys2Proof.core) step_keeps_logsFaultsSince steps _ t (logsFaultsSince_resetBlock noReset) h
    rw [hout, List.drop_left]
    refine ⟨fun c => ?_, fun j hj => ?_⟩
    · rw [hlog]
      exact ⟨fun ⟨d, hd, hmem⟩ => FaultCode.code_injective hd ▸ hmem, fun hmem => ⟨c, rfl, hmem⟩⟩
    · rw [← Bool.not_eq_true, hlog]
      rintro ⟨c, rfl, -⟩
      have := c.code_pos
      have := c.code_lt
      omega
  · obtain ⟨o, ho⟩ := (exec_effect h).delivers
    exact ho.log_kept

end Sys2Proof.Machine
end

section
/-! SUPPORT. The decoder against the opcode table: the fields that a row's match and mask test, and what the decoder
answers to a word with a row's opcode; then the statement about illegal commands (spec 30_encoding.md R53 to R55,
60_exceptions.md R136). -/

namespace Sys2Proof.Machine
open Sys2Proof.Spec

/-! ## The fields as the statements read them from the word -/

theorem rField_toNat (w : CommandWord) : (rField w).toNat = (w >>> 72).toNat % 16 :=
  BitVec.extractLsb'_toNat ..

theorem lenField_toNat (w : CommandWord) : (lenField w).toNat = (w >>> 32).toNat % 2 ^ 32 :=
  BitVec.extractLsb'_toNat ..

/-- `OP` is all of the word above bit 75. -/
theorem opField_eq_iff (w u : CommandWord) : opField w = opField u ↔ w >>> 76 = u >>> 76 := by
  simp only [← BitVec.toNat_inj, opField, BitVec.extractLsb'_toNat, BitVec.toNat_ushiftRight,
    Nat.shiftRight_eq_div_pow]
  omega

/-- Masking the low half of `V` leaves `X`. -/
theorem vField_and_lenX_eq_zero (w : CommandWord) :
    vField w &&& lenX 0#32 (.allOnes 32) = 0#64 ↔ xField w = 0#32 := by
  rw [← BitVec.toNat_inj, ← BitVec.toNat_inj, xField_eq, BitVec.toNat_and, BitVec.extractLsb'_toNat]
  exact Eq.congr_left (Nat.and_two_pow_sub_one_eq_mod _ 32)

/-! ## The rows of the table -/

/-- The opcode table by the fields of R50: every row tests all of `OP` and wants each other field that it tests to be
zero (R53, R54). -/
theorem opcodeTable_eq_fields : opcodeTable =
    [ ⟨"WOPEN",   commandWord 0x1 0 0 0, commandWord (.allOnes 4) (.allOnes 4) (.allOnes 8) (.allOnes 64)⟩,
      ⟨"WRITE",   commandWord 0x2 0 0 0, commandWord (.allOnes 4) (.allOnes 4) 0 0⟩,
      ⟨"WRITES",  commandWord 0x3 0 0 0, commandWord (.allOnes 4) (.allOnes 4) 0 0⟩,
      ⟨"PADEMIT", commandWord 0x4 0 0 0, commandWord (.allOnes 4) (.allOnes 4) (.allOnes 8) (.allOnes 64)⟩,
      ⟨"RLOAD",   commandWord 0x8 0 0 0, commandWord (.allOnes 4) (.allOnes 4) (.allOnes 8) (lenX 0 (.allOnes 32))⟩,
      ⟨"ROPEN",   commandWord 0x9 0 0 0, commandWord (.allOnes 4) 0 (.allOnes 8) 0⟩,
      ⟨"READ",    commandWord 0xA 0 0 0, commandWord (.allOnes 4) 0 0 (.allOnes 64)⟩,
      ⟨"READS",   commandWord 0xB 0 0 0, commandWord (.allOnes 4) 0 0 (.allOnes 64)⟩,
      ⟨"SKIP",    commandWord 0xC 0 0 0, commandWord (.allOnes 4) 0 (.allOnes 8) 0⟩,
      ⟨"CRC32",   commandWord 0xD 0 0 0, commandWord (.allOnes 4) (.allOnes 4) (.allOnes 8) (lenX 0 (.allOnes 32))⟩,
      ⟨"CRCCHK",  commandWord 0xE 0 0 0, commandWord (.allOnes 4) (.allOnes 4) (.allOnes 8) 0⟩ ] := by
  decide

/-- No two rows have the same opcode. -/
theorem opcodeTable_opcode_injective : ∀ a ∈ opcodeTable, ∀ b ∈ opcodeTable,
    opField a.pattern = opField b.pattern → a = b := by decide

theorem not_opcodeListed_zero : ¬ opcodeListed 0 := by
  unfold opcodeListed; decide

theorem not_opcodeListed_allOnes : ¬ opcodeListed (BitVec.allOnes 80) := by
  unfold opcodeListed; decide

/-- A row of the shape of `opcodeTable_eq_fields` selects a word iff the opcodes agree and the fields under the mask are
zero. -/
theorem selects_iff (name : String) (op mr : BitVec 4) (mn : BitVec 8) (mv : Word64) (w : CommandWord) :
    (OpcodeRow.mk name (commandWord op 0 0 0) (commandWord (.allOnes 4) mr mn mv)).selects w = true ↔
      opField w = op ∧ rField w &&& mr = 0 ∧ nField w &&& mn = 0 ∧ vField w &&& mv = 0 := by
  have hand := commandWord_and (opField w) (rField w) (nField w) (vField w) (.allOnes 4) mr mn mv
  rw [commandWord_fields, BitVec.and_allOnes] at hand
  rw [OpcodeRow.selects, beq_iff_eq, hand, commandWord_inj]

theorem opField_of_selects {row : OpcodeRow} {w : CommandWord} (hrow : row ∈ opcodeTable)
    (h : row.selects w = true) : opField w = opField row.pattern := by
  have shape : ∀ row ∈ opcodeTable, row = ⟨row.mnemonic, commandWord (opField row.pattern) 0 0 0,
      commandWord (.allOnes 4) (rField row.mask) (nField row.mask) (vField row.mask)⟩ := by decide
  rw [shape row hrow, selects_iff] at h
  exact h.1

/-- A word selects at most one row. -/
theorem row_eq_of_selects {a b : OpcodeRow} {w : CommandWord} (ha : a ∈ opcodeTable) (hb : b ∈ opcodeTable)
    (hwa : a.selects w = true) (hwb : b.selects w = true) : a = b :=
  opcodeTable_opcode_injective a ha b hb ((opField_of_selects ha hwa).symm.trans (opField_of_selects hb hwb))

/-! ## The decoder, opcode by opcode (R53) -/

section
variable {numReaders : Nat} {w : CommandWord}

theorem decodeHeader_wopen (hop : opField w = 0x1) : decodeHeader numReaders w =
    requireZero (rField w == 0 && nField w == 0 && vField w == 0) (.ok (.plain .wopen)) := by
  rw [decodeHeader, hop]; rfl

theorem decodeHeader_write (hop : opField w = 0x2) : decodeHeader numReaders w =
    requireZero (rField w == 0) (.ok (.plain (.write (nField w) (vField w)))) := by
  rw [decodeHeader, hop]; rfl

theorem decodeHeader_writes (hop : opField w = 0x3) : decodeHeader numReaders w =
    requireZero (rField w == 0) (.ok (.plain (.writes (nField w) (vField w)))) := by
  rw [decodeHeader, hop]; rfl

theorem decodeHeader_pademit (hop : opField w = 0x4) : decodeHeader numReaders w =
    requireZero (rField w == 0 && nField w == 0 && vField w == 0) (.ok (.plain .pademit)) := by
  rw [decodeHeader, hop]; rfl

theorem decodeHeader_rload (hop : opField w = 0x8) : decodeHeader numReaders w =
    requireZero (rField w == 0 && nField w == 0 && xField w == 0) (.ok ⟨(lenField w).toNat, .rload⟩) := by
  rw [decodeHeader, hop]; rfl

theorem decodeHeader_ropen (hop : opField w = 0x9) : decodeHeader numReaders w =
    requireZero (nField w == 0) (requireReader numReaders w (.ropen (rField w) (vField w))) := by
  rw [decodeHeader, hop]; rfl

theorem decodeHeader_read (hop : opField w = 0xA) : decodeHeader numReaders w =
    requireZero (vField w == 0) (requireReader numReaders w (.read (rField w) (nField w))) := by
  rw [decodeHeader, hop]; rfl

theorem decodeHeader_reads (hop : opField w = 0xB) : decodeHeader numReaders w =
    requireZero (vField w == 0) (requireReader numReaders w (.reads (rField w) (nField w))) := by
  rw [decodeHeader, hop]; rfl

theorem decodeHeader_skip (hop : opField w = 0xC) : decodeHeader numReaders w =
    requireZero (nField w == 0) (requireReader numReaders w (.skip (rField w) (vField w))) := by
  rw [decodeHeader, hop]; rfl

theorem decodeHeader_crc32 (hop : opField w = 0xD) : decodeHeader numReaders w =
    requireZero (rField w == 0 && nField w == 0 && xField w == 0) (.ok ⟨(lenField w).toNat, .crc32⟩) := by
  rw [decodeHeader, hop]; rfl

theorem decodeHeader_crcchk (hop : opField w = 0xE) : decodeHeader numReaders w =
    requireZero (rField w == 0 && nField w == 0) (.ok ⟨(lenField w).toNat, .crcchk (xField w)⟩) := by
  rw [decodeHeader, hop]; rfl

end

/-- A word whose opcode no row has (R55 (a)). -/
theorem decodeHeader_of_not_listed (numReaders : Nat) {w : CommandWord} (h : ¬ opcodeListed w) :
    decodeHeader numReaders w = .error .reservedOpcode := by
  have unlisted : (opField w).toNat ∉ opcodeTable.map fun row => (opField row.pattern).toNat := by
    rw [List.mem_map]
    rintro ⟨row, hrow, e⟩
    exact h ⟨row, hrow, (opField_eq_iff ..).1 (BitVec.eq_of_toNat_eq e)⟩
  unfold decodeHeader
  split
  case h_12 => rfl
  all_goals next hop => exact absurd (by rw [hop]; decide) unlisted

/-! ## What the decoder answers to a word with a row's opcode -/

/-- The commands that name a reader (R55 (c)). -/
abbrev readerMnemonics : List String := ["ROPEN", "READ", "READS", "SKIP"]

/-- The payload length that the word asks for if it is of the command `name` (R52). -/
def payloadLengthOf (name : String) (w : CommandWord) : Nat :=
  if name ∈ ["RLOAD", "CRC32", "CRCCHK"] then (lenField w).toNat else 0

/-- The decoder's answers to the word `w` are those of the row (R55 (b), (c)): each test in order, then a header with
the row's payload length and the row's command. -/
structure DecodesAs (numReaders : Nat) (w : CommandWord) (row : OpcodeRow) : Prop where
  reserved : ¬ row.selects w = true → decodeHeader numReaders w = .error .reservedField
  missing : row.selects w = true → row.mnemonic ∈ readerMnemonics → numReaders ≤ (rField w).toNat →
    decodeHeader numReaders w = .error .readerNumber
  header : row.selects w = true → (row.mnemonic ∈ readerMnemonics → (rField w).toNat < numReaders) →
    ∃ h, decodeHeader numReaders w = .ok h ∧ h.payloadLength = payloadLengthOf row.mnemonic w ∧
      ∀ p, (h.instr p).mnemonic = row.mnemonic

section
variable {numReaders : Nat} {w : CommandWord} {name : String} {op mr : BitVec 4} {mn : BitVec 8} {mv : Word64}
  {z : Bool}

/-- For a word with the row's opcode, a row selects the word iff the fields under the row's mask pass the test `z`. -/
theorem selects_iff_test (hop : opField w = op)
    (hz : z = true ↔ rField w &&& mr = 0 ∧ nField w &&& mn = 0 ∧ vField w &&& mv = 0) :
    (OpcodeRow.mk name (commandWord op 0 0 0) (commandWord (.allOnes 4) mr mn mv)).selects w = true ↔ z = true := by
  rw [selects_iff, hz, and_iff_right hop]

/-- The rows without a reader: the decoder's field test `z` is the row's, and stands alone before the header. -/
theorem DecodesAs.of_header {h : Header} (hop : opField w = op)
    (hdecode : decodeHeader numReaders w = requireZero z (.ok h))
    (hz : z = true ↔ rField w &&& mr = 0 ∧ nField w &&& mn = 0 ∧ vField w &&& mv = 0)
    (hreader : name ∉ readerMnemonics) (hlen : h.payloadLength = payloadLengthOf name w)
    (hmnemonic : ∀ p, (h.instr p).mnemonic = name) :
    DecodesAs numReaders w ⟨name, commandWord op 0 0 0, commandWord (.allOnes 4) mr mn mv⟩ where
  reserved hsel := by
    rw [selects_iff_test hop hz] at hsel
    rw [hdecode, requireZero, if_neg hsel]
  missing _ hnames := absurd hnames hreader
  header hsel _ := by
    rw [selects_iff_test hop hz] at hsel
    exact ⟨h, by rw [hdecode, requireZero, if_pos hsel], hlen, hmnemonic⟩

/-- The rows with a reader: the decoder's field test `z` is the row's, then comes the reader test. -/
theorem DecodesAs.of_reader {i : Instr} (hop : opField w = op)
    (hdecode : decodeHeader numReaders w = requireZero z (requireReader numReaders w i))
    (hz : z = true ↔ rField w &&& mr = 0 ∧ nField w &&& mn = 0 ∧ vField w &&& mv = 0)
    (hreader : name ∈ readerMnemonics) (hlen : 0 = payloadLengthOf name w) (hmnemonic : i.mnemonic = name) :
    DecodesAs numReaders w ⟨name, commandWord op 0 0 0, commandWord (.allOnes 4) mr mn mv⟩ where
  reserved hsel := by
    rw [selects_iff_test hop hz] at hsel
    rw [hdecode, requireZero, if_neg hsel]
  missing hsel _ hn := by
    rw [selects_iff_test hop hz] at hsel
    simp [hdecode, requireZero, hsel, requireReader, readerInRange, hn]
  header hsel hpresent := by
    rw [selects_iff_test hop hz] at hsel
    exact ⟨.plain i, by simp [hdecode, requireZero, hsel, requireReader, readerInRange, hpresent hreader], hlen,
      fun _ => hmnemonic⟩

end

/-- The decoder follows the table, row by row. -/
theorem decodesAs_of_opField (numReaders : Nat) (w : CommandWord) :
    ∀ row ∈ opcodeTable, opField w = opField row.pattern → DecodesAs numReaders w row := by
  rw [opcodeTable_eq_fields]
  simp only [List.forall_mem_cons, opField_commandWord]
  refine ⟨fun hop => .of_header hop (decodeHeader_wopen hop) ?_ (by decide) rfl fun _ => rfl,
    fun hop => .of_header hop (decodeHeader_write hop) ?_ (by decide) rfl fun _ => rfl,
    fun hop => .of_header hop (decodeHeader_writes hop) ?_ (by decide) rfl fun _ => rfl,
    fun hop => .of_header hop (decodeHeader_pademit hop) ?_ (by decide) rfl fun _ => rfl,
    fun hop => .of_header hop (decodeHeader_rload hop) ?_ (by decide) rfl fun _ => rfl,
    fun hop => .of_reader hop (decodeHeader_ropen hop) ?_ (by decide) rfl rfl,
    fun hop => .of_reader hop (decodeHeader_read hop) ?_ (by decide) rfl rfl,
    fun hop => .of_reader hop (decodeHeader_reads hop) ?_ (by decide) rfl rfl,
    fun hop => .of_reader hop (decodeHeader_skip hop) ?_ (by decide) rfl rfl,
    fun hop => .of_header hop (decodeHeader_crc32 hop) ?_ (by decide) rfl fun _ => rfl,
    fun hop => .of_header hop (decodeHeader_crcchk hop) ?_ (by decide) rfl fun _ => rfl,
    List.forall_mem_nil _⟩
  -- What is left of each row: the decoder's field test asks for the fields under the row's mask.
  all_goals simp [and_assoc, vField_and_lenX_eq_zero, -BitVec.reduceAllOnes]

/-- The decoder's answers to a word that selects a row are the row's. -/
theorem decodesAs_of_selects (numReaders : Nat) {w : CommandWord} {row : OpcodeRow} (hrow : row ∈ opcodeTable)
    (hsel : row.selects w = true) : DecodesAs numReaders w row :=
  decodesAs_of_opField numReaders w row hrow (opField_of_selects hrow hsel)

/-! ## The decoder in the words of the statement -/

section
variable {numReaders : Nat} {w : CommandWord} {payload : List Byte}

theorem decode_of_header_error {e : DecodeError} (h : decodeHeader numReaders w = .error e) :
    decode numReaders w payload = .error e := by
  rw [decode, h]

theorem decode_of_header_ok {h : Header} (e : decodeHeader numReaders w = .ok h) :
    decode numReaders w payload = attachPayload h payload := by
  rw [decode, e]

theorem decode_of_not_listed (h : ¬ opcodeListed w) : decode numReaders w payload = .error .reservedOpcode :=
  decode_of_header_error (decodeHeader_of_not_listed numReaders h)

theorem decode_of_not_selected (hlisted : opcodeListed w) (h : ¬ rowSelected w) :
    decode numReaders w payload = .error .reservedField := by
  obtain ⟨row, hrow, hop⟩ := hlisted
  have hsel : ¬ row.selects w = true := fun e => h ⟨row, hrow, e⟩
  exact decode_of_header_error
    ((decodesAs_of_opField numReaders w row hrow ((opField_eq_iff ..).2 hop.symm)).reserved hsel)

theorem decode_of_readerMissing (h : readerMissing numReaders w) :
    decode numReaders w payload = .error .readerNumber := by
  obtain ⟨row, hrow, hsel, hnames, hn⟩ := h
  rw [← rField_toNat] at hn
  exact decode_of_header_error ((decodesAs_of_selects numReaders hrow hsel).missing hsel hnames hn)

/-- A word that selects a row and names no missing reader passes the tests of R55 before the payload's. -/
theorem decodeHeader_of_selects {row : OpcodeRow} (hrow : row ∈ opcodeTable) (hsel : row.selects w = true)
    (hpresent : ¬ readerMissing numReaders w) : ∃ h, decodeHeader numReaders w = .ok h ∧
      h.payloadLength = payloadLengthOf row.mnemonic w ∧ ∀ p, (h.instr p).mnemonic = row.mnemonic := by
  refine (decodesAs_of_selects numReaders hrow hsel).header hsel fun hnames => ?_
  rw [rField_toNat]
  exact Nat.lt_of_not_le fun hn => hpresent ⟨row, hrow, hsel, hnames, hn⟩

theorem decode_of_payloadWrong (hpresent : ¬ readerMissing numReaders w) (h : payloadWrong w payload) :
    decode numReaders w payload = .error .payloadLength := by
  obtain ⟨row, hrow, hsel, hwrong⟩ := h
  obtain ⟨h, hok, hlen, -⟩ := decodeHeader_of_selects hrow hsel hpresent
  rw [decode_of_header_ok hok, attachPayload_error]
  rwa [hlen, payloadLengthOf, lenField_toNat]

/-- A command that passes the tests of the table decodes to a command of the row that it selects. -/
theorem decode_of_not_illegal {c : Command} (h : ¬ illegal numReaders c) :
    ∃ i row, row ∈ opcodeTable ∧ row.selects c.word = true ∧ row.mnemonic = i.mnemonic ∧
      decode numReaders c.word c.payload = .ok i := by
  simp only [illegal, not_or, not_not] at h
  obtain ⟨-, ⟨row, hrow, hsel⟩, hpresent, hpayload⟩ := h
  obtain ⟨h, hok, hlen, hmnemonic⟩ := decodeHeader_of_selects hrow hsel hpresent
  refine ⟨h.instr c.payload, row, hrow, hsel, (hmnemonic _).symm, ?_⟩
  rw [decode_of_header_ok hok, attachPayload_ok]
  rw [hlen, payloadLengthOf, lenField_toNat]
  exact Decidable.not_not.1 fun hwrong => hpayload ⟨row, hrow, hsel, hwrong⟩

/-- An illegal command is rejected: whichever test it fails, the first that fails gives the reason. -/
theorem decode_of_illegal {c : Command} (h : illegal numReaders c) :
    ∃ e, decode numReaders c.word c.payload = .error e := by
  by_cases hlisted : opcodeListed c.word
  case neg => exact ⟨_, decode_of_not_listed hlisted⟩
  by_cases hselected : rowSelected c.word
  case neg => exact ⟨_, decode_of_not_selected hlisted hselected⟩
  by_cases hmissing : readerMissing numReaders c.word
  case pos => exact ⟨_, decode_of_readerMissing hmissing⟩
  rcases h with h | h | h | h
  · exact absurd hlisted h
  · exact absurd hselected h
  · exact absurd h hmissing
  · exact ⟨_, decode_of_payloadWrong hmissing h⟩

end

/-! ## What the block does with a command -/

theorem runCommand_of_ok {c : Command} {s : State} {i : Instr} (h : decode s.numReaders c.word c.payload = .ok i) :
    runCommand c s = exec i s := by
  rw [runCommand, h]

/-- A rejected command takes effect on nothing but the log and the output (60_exceptions.md R136). -/
theorem runCommand_of_error {c : Command} {s : State} {e : DecodeError}
    (h : decode s.numReaders c.word c.payload = .error e) :
    runCommand c s = .next (bareFault s .illegalCommand) := by
  rw [runCommand, h]; rfl

/-- Settles O3: each test of R55 is one of the decoder's, read off the row that has the word's opcode. -/
theorem illegalCommandsAreExactlyTheTableMisfits : Obligations.IllegalCommandsAreExactlyTheTableMisfits := by
  intro s c
  refine ⟨decode_of_not_listed, decode_of_not_selected, decode_of_readerMissing, decode_of_payloadWrong,
    fun h => ?_, fun h => ?_, .inl not_opcodeListed_zero, .inl not_opcodeListed_allOnes⟩
  · obtain ⟨e, he⟩ := decode_of_illegal h
    exact runCommand_of_error he
  · obtain ⟨i, row, hrow, hsel, hmnemonic, hi⟩ := decode_of_not_illegal h
    exact ⟨i, row, hrow, hsel, fun other hother hsel' => row_eq_of_selects hother hrow hsel' hsel, hmnemonic, hi,
      runCommand_of_ok hi⟩

end Sys2Proof.Machine
end

section
/-! SUPPORT. `MemWrite` bit by bit against its closed form, the checks of the writer's commands in their order and the
padding; then the statements about `WOPEN`, `WRITE` and `PADEMIT` (spec 20_memory.md R34, 40_writer.md R70 to R76). -/

namespace Sys2Proof.Machine
open Sys2Proof.Spec

/-! ## `AppendBit` and `MemWrite`, by their cases -/

theorem Writer.appendBit_of_cnt_lt {w : Writer} (h : w.cnt.val < 7) (b : Bool) : w.appendBit b =
    { w with
      acc := w.acc ||| BitVec.ofNat 8 b.toNat <<< (7 - w.cnt.val), cnt := w.cnt + 1, total := w.total + 1 } :=
  if_neg (by omega)

/-- The eighth pending bit completes a byte. -/
theorem Writer.appendBit_of_cnt_seven {w : Writer} (h : w.cnt.val = 7) (b : Bool) : w.appendBit b =
    { w with
      bytes := w.bytes ++ [w.acc ||| BitVec.ofNat 8 b.toNat <<< (7 - w.cnt.val)], acc := 0, cnt := 0
      total := w.total + 1 } :=
  if_pos (by omega)

/-- `MemWrite` from its other end: the least significant bit is appended last. -/
theorem Writer.memWrite_succ_last (w : Writer) (v n : Nat) :
    w.memWrite v (n + 1) = (w.memWrite (v / 2) n).appendBit (v.testBit 0) := by
  induction n generalizing w with
  | zero => rfl
  | succ n ih =>
    calc w.memWrite v (n + 2)
      _ = ((w.appendBit (v.testBit (n + 1))).memWrite (v / 2) n).appendBit (v.testBit 0) := ih _
      _ = (w.memWrite (v / 2) (n + 1)).appendBit (v.testBit 0) := by rw [Nat.testBit_add_one]; rfl

/-! ## The closed form of `MemWrite`, one bit longer (20_memory.md R34) -/

/-- The `q` whole bytes of a bit string `sum` that stand before its last `p` bits. -/
def wholeBytes (sum p q : Nat) : List Byte :=
  (List.range q).map fun j => BitVec.ofNat 8 (sum / 2 ^ (p + 8 * (q - 1 - j)))

@[simp] theorem length_wholeBytes (sum p q : Nat) : (wholeBytes sum p q).length = q := by
  simp [wholeBytes]

/-- The byte that holds `p` pending bits `x`, left-justified. -/
def pendingByte (x p : Nat) : Byte := BitVec.ofNat 8 (x * 2 ^ (8 - p))

theorem written_eq (w : Writer) (v n : Nat) : written w v n =
    { w with
      bytes := w.bytes ++ wholeBytes (pendingThen w v n) ((w.cnt.val + n) % 8) ((w.cnt.val + n) / 8)
      acc := pendingByte (pendingThen w v n % 2 ^ ((w.cnt.val + n) % 8)) ((w.cnt.val + n) % 8)
      cnt := Fin.ofNat 8 ((w.cnt.val + n) % 8)
      total := w.total + BitVec.ofNat 64 n } := rfl

@[simp] theorem written_cnt_val (w : Writer) (v n : Nat) : (written w v n).cnt.val = (w.cnt.val + n) % 8 :=
  Nat.mod_mod ..

@[simp] theorem written_length (w : Writer) (v n : Nat) :
    (written w v n).bytes.length = w.bytes.length + (w.cnt.val + n) / 8 := by
  simp [written_eq]

theorem written_total_toNat (w : Writer) (v : Nat) {n : Nat} (h : w.total.toNat + n < 2 ^ 64) :
    (written w v n).total.toNat = w.total.toNat + n := by
  rw [written_eq, BitVec.toNat_add, BitVec.toNat_ofNat, Nat.add_mod_mod, Nat.mod_eq_of_lt h]

theorem pendingThen_succ (w : Writer) (v n : Nat) :
    pendingThen w v (n + 1) = 2 * pendingThen w (v / 2) n + (v.testBit 0).toNat := by
  rw [pendingThen, pendingThen, pow_succ', Nat.mod_mul, Nat.toNat_testBit, pow_zero, Nat.div_one]
  ring

/-- Dropping the last `k + 1` bits drops `b` and the last `k` bits of `x`. -/
theorem double_add_bit_div (x k : Nat) (b : Bool) : (2 * x + b.toNat) / 2 ^ (k + 1) = x / 2 ^ k := by
  have hb := b.toNat_lt
  rw [pow_succ', ← Nat.div_div_eq_div_mul, show (2 * x + b.toNat) / 2 = x by omega]

theorem double_add_bit_mod (x k : Nat) (b : Bool) :
    (2 * x + b.toNat) % 2 ^ (k + 1) = 2 * (x % 2 ^ k) + b.toNat := by
  have hb := b.toNat_lt
  rw [pow_succ', Nat.mod_mul, show (2 * x + b.toNat) / 2 = x by omega,
    show (2 * x + b.toNat) % 2 = b.toNat by omega, Nat.add_comm]

/-- One more pending bit leaves the whole bytes as they are. -/
theorem wholeBytes_of_pending_bit (sum p q : Nat) (b : Bool) :
    wholeBytes (2 * sum + b.toNat) (p + 1) q = wholeBytes sum p q := by
  unfold wholeBytes
  simp only [Nat.add_right_comm p 1, double_add_bit_div]

/-- With the eighth pending bit the last eight bits become a whole byte. -/
theorem wholeBytes_of_eighth_bit (sum q : Nat) (b : Bool) : wholeBytes (2 * sum + b.toNat) 0 (q + 1) =
    wholeBytes sum 7 q ++ [BitVec.ofNat 8 (2 * sum + b.toNat)] := by
  rw [wholeBytes, List.range_succ, List.map_append]
  congr 1
  · refine List.map_congr_left fun j hj => ?_
    rw [List.mem_range] at hj
    rw [show 0 + 8 * (q + 1 - 1 - j) = 7 + 8 * (q - 1 - j) + 1 by omega, double_add_bit_div]
  · simp

/-- `AppendBit` puts the bit right behind the `p` pending ones. -/
theorem pendingByte_or_bit (x : Nat) {p : Nat} (hp : p ≤ 7) (b : Bool) :
    pendingByte x p ||| BitVec.ofNat 8 b.toNat <<< (7 - p) = pendingByte (2 * x + b.toNat) (p + 1) := by
  have hlt : b.toNat * 2 ^ (7 - p) < 2 ^ (8 - p) := by
    rw [show 8 - p = 7 - p + 1 by omega, pow_succ']
    exact Nat.mul_lt_mul_of_pos_right b.toNat_lt (by positivity)
  have hshift : BitVec.ofNat 8 b.toNat <<< (7 - p) = BitVec.ofNat 8 (b.toNat * 2 ^ (7 - p)) :=
    BitVec.eq_of_toNat_eq (by simp [Nat.shiftLeft_eq])
  rw [hshift, pendingByte, pendingByte, ← BitVec.ofNat_or, mul_comm x, ← Nat.two_pow_add_eq_or_of_lt hlt,
    show 8 - (p + 1) = 7 - p by omega, show 8 - p = 7 - p + 1 by omega, pow_succ]
  ring_nf

/-- Eight pending bits are a byte. -/
theorem pendingByte_eight (x : Nat) : pendingByte (x % 2 ^ 8) 8 = BitVec.ofNat 8 x :=
  BitVec.eq_of_toNat_eq (by simp [pendingByte])

@[simp] theorem pendingByte_zero (p : Nat) : pendingByte 0 p = 0 := by
  simp [pendingByte]

/-- Left-justified pending bits are those that the closed form starts from. -/
theorem pendingByte_of_leftJustified {w : Writer} (h : leftJustified w) :
    pendingByte (w.acc.toNat / 2 ^ (8 - w.cnt.val)) w.cnt.val = w.acc := by
  rw [pendingByte, Nat.div_mul_cancel (Nat.dvd_of_mod_eq_zero h), BitVec.ofNat_toNat, BitVec.setWidth_eq]

theorem written_zero {w : Writer} (h : leftJustified w) (v : Nat) : written w v 0 = w := by
  have hcnt := w.cnt.isLt
  have hmod : (w.cnt.val + 0) % 8 = w.cnt.val := Nat.mod_eq_of_lt hcnt
  have hdiv : (w.cnt.val + 0) / 8 = 0 := Nat.div_eq_of_lt hcnt
  have hpending : pendingThen w v 0 % 2 ^ w.cnt.val = w.acc.toNat / 2 ^ (8 - w.cnt.val) := by
    rw [pendingThen, pow_zero, Nat.mod_one, Nat.mul_one, Nat.add_zero]
    refine Nat.mod_eq_of_lt (Nat.div_lt_of_lt_mul ?_)
    rw [← pow_add, show 8 - w.cnt.val + w.cnt.val = 8 by omega]
    exact w.acc.isLt
  have hfin : Fin.ofNat 8 w.cnt.val = w.cnt := Fin.ext hmod
  rw [written_eq, hmod, hdiv, hpending, pendingByte_of_leftJustified h, hfin, BitVec.add_zero]
  simp [wholeBytes]

theorem fin_ofNat_succ (m : Nat) : Fin.ofNat 8 (m + 1) = Fin.ofNat 8 m + 1 :=
  Fin.ext (Nat.mod_add_mod m 8 1).symm

/-- The closed form grows as `AppendBit` does, with the least significant bit last. -/
theorem written_succ (w : Writer) (v n : Nat) :
    written w v (n + 1) = (written w (v / 2) n).appendBit (v.testBit 0) := by
  have htotal : w.total + BitVec.ofNat 64 (n + 1) = w.total + BitVec.ofNat 64 n + 1 := by
    rw [BitVec.ofNat_add, BitVec.add_assoc]; rfl
  have hle : (w.cnt.val + n) % 8 ≤ 7 := by omega
  have hacc := pendingByte_or_bit (pendingThen w (v / 2) n % 2 ^ ((w.cnt.val + n) % 8)) hle (v.testBit 0)
  rw [← double_add_bit_mod, ← pendingThen_succ] at hacc
  by_cases hseven : (w.cnt.val + n) % 8 = 7
  case pos =>
    have hmod : (w.cnt.val + (n + 1)) % 8 = 0 := by omega
    have hdiv : (w.cnt.val + (n + 1)) / 8 = (w.cnt.val + n) / 8 + 1 := by omega
    rw [Writer.appendBit_of_cnt_seven ((written_cnt_val ..).trans hseven), written_cnt_val]
    rw [hseven, pendingByte_eight] at hacc
    simp only [written_eq, hseven, hacc, hmod, hdiv, htotal]
    rw [pendingThen_succ, wholeBytes_of_eighth_bit, pow_zero, Nat.mod_one, pendingByte_zero, List.append_assoc]
    rfl
  case neg =>
    have hmod : (w.cnt.val + (n + 1)) % 8 = (w.cnt.val + n) % 8 + 1 := by omega
    have hdiv : (w.cnt.val + (n + 1)) / 8 = (w.cnt.val + n) / 8 := by omega
    rw [Writer.appendBit_of_cnt_lt (by rw [written_cnt_val]; omega), written_cnt_val]
    simp only [written_eq, hacc, hmod, hdiv, htotal]
    rw [pendingThen_succ, wholeBytes_of_pending_bit, fin_ofNat_succ]

/-- The bit-by-bit append equals the closed form, for every number of bits. -/
theorem memWrite_eq_written {w : Writer} (h : leftJustified w) (v n : Nat) : w.memWrite v n = written w v n := by
  induction n generalizing v with
  | zero => exact (written_zero h v).symm
  | succ n ih => rw [Writer.memWrite_succ_last, ih, written_succ]

/-! ## The checks of a write, in their order (40_writer.md R71) -/

theorem wbufHolds_iff (c : Config) (bytes : Nat) : wbufHolds c bytes = true ↔ fitsBuffer c bytes := by
  unfold wbufHolds fitsBuffer
  cases c.wbufMaxBytes <;> simp

theorem legalWidth_iff (n : Nat) : legalWidth n = true ↔ 1 ≤ n ∧ n ≤ 64 := by
  unfold legalWidth nbitsMin nbitsMax
  simp

theorem writerOverflows_iff (c : Config) (w : Writer) (n : Nat) : writerOverflows c w n = true ↔
    2 ^ 64 ≤ w.total.toNat + n ∨ ¬ fitsBuffer c ((w.total.toNat + n + 7) / 8) := by
  unfold writerOverflows posW ceil8
  simp [← wbufHolds_iff]

theorem writeCheck_of_writeLegal {s : State} {n : Nat} (h : writeLegal s n) : writeCheck s.cfg s.writer n = none := by
  rw [writeCheck_eq_none_iff, wbufHolds_iff]
  exact h

section
variable {c : Config} {w : Writer} {n : Nat}

theorem writeCheck_badState (h : w.state ≠ .opened) : writeCheck c w n = some .badState := if_pos h

theorem writeCheck_illegalWidth (hopen : w.state = .opened) (h : n < 1 ∨ 64 < n) :
    writeCheck c w n = some .illegalWidth := by
  have hwidth : ¬ legalWidth n = true := by rw [legalWidth_iff]; omega
  simp [writeCheck, hopen, hwidth]

theorem writeCheck_writerOverflow (hopen : w.state = .opened) (hmin : 1 ≤ n) (hmax : n ≤ 64)
    (h : 2 ^ 64 ≤ w.total.toNat + n ∨ ¬ fitsBuffer c ((w.total.toNat + n + 7) / 8)) :
    writeCheck c w n = some .writerOverflow := by
  have hwidth : legalWidth n = true := (legalWidth_iff n).2 ⟨hmin, hmax⟩
  have hover : writerOverflows c w n = true := (writerOverflows_iff c w n).2 h
  simp [writeCheck, hopen, hwidth, hover]

end

/-! ## What the writer's commands answer -/

/-- Taking a fault of the writer in the words of 60_exceptions.md R134. -/
theorem takeFault_writer (s : State) (c : FaultCode) : s.takeFault .writer c = writerFault s c := rfl

section
variable {s : State} {n v : Nat}

theorem appendBits_of_fault {c : FaultCode} (h : writeCheck s.cfg s.writer n = some c) :
    appendBits n v s = .next (writerFault s c) := by
  rw [appendBits, h, ← takeFault_writer]

theorem appendBits_of_writeLegal (hjust : leftJustified s.writer) (h : writeLegal s n) :
    appendBits n v s = .next { s with writer := written s.writer v n, out := answered s 0 [] } := by
  rw [appendBits, writeCheck_of_writeLegal h, memWrite_eq_written hjust]; rfl

/-- A command that is `appendBits` follows the rule of `WRITE` and `WRITES`. -/
theorem writeRule_of_exec_eq_appendBits {i : Instr} (hexec : exec i s = appendBits n v s)
    (hjust : leftJustified s.writer) : writeRule i n v s := by
  rw [writeRule, hexec]
  refine ⟨fun legal => ?_, fun hstate => ?_, fun hopen hwidth => ?_, fun hopen hmin hmax hover => ?_⟩
  · have ⟨_, _, _, htotal, _⟩ := legal
    exact ⟨appendBits_of_writeLegal hjust legal, written_total_toNat _ v htotal, written_length ..,
      written_cnt_val ..⟩
  · exact appendBits_of_fault (writeCheck_badState hstate)
  · exact appendBits_of_fault (writeCheck_illegalWidth hopen hwidth)
  · exact appendBits_of_fault (writeCheck_writerOverflow hopen hmin hmax hover)

end

/-! ## The padding (40_writer.md R76) -/

/-- The bits below the pending ones are 0. -/
theorem Writer.acc_getLsbD_of_leftJustified {w : Writer} (h : leftJustified w) {j : Nat} (hj : j < 8 - w.cnt.val) :
    w.acc.getLsbD j = false := by
  obtain ⟨x, hx⟩ := Nat.dvd_of_mod_eq_zero h
  rw [BitVec.getLsbD, hx, Nat.testBit_two_pow_mul, decide_eq_false (by omega), Bool.false_and]

theorem Writer.acc_eq_zero_of_leftJustified {w : Writer} (h : leftJustified w) (hcnt : w.cnt = 0) : w.acc = 0 := by
  rw [leftJustified, hcnt] at h
  exact BitVec.eq_of_toNat_eq ((Nat.mod_eq_of_lt w.acc.isLt).symm.trans h)

@[simp] theorem Writer.pad_bytes (w : Writer) : w.pad.bytes = w.bytes ++ if w.cnt = 0 then [] else [w.acc] := by
  unfold Writer.pad
  split <;> simp

theorem Writer.pad_eq_of_leftJustified {w : Writer} (h : leftJustified w) :
    w.pad = { w with bytes := w.pad.bytes, acc := 0, cnt := 0 } := by
  by_cases hcnt : w.cnt = 0
  · rw [Writer.pad_bytes, Writer.pad, if_pos hcnt, if_pos hcnt, List.append_nil, ← hcnt,
      ← Writer.acc_eq_zero_of_leftJustified h hcnt]
  · rw [Writer.pad_bytes, Writer.pad, if_neg hcnt, if_neg hcnt]

/-- The padded stream has as few whole bytes as hold its bits. -/
theorem Writer.pad_length {w : Writer} (h : w.streaming) : w.pad.bytes.length = (w.total.toNat + 7) / 8 := by
  have hlt := w.cnt.isLt
  rw [Writer.streaming, Writer.len] at h
  rw [Writer.pad_bytes, List.length_append]
  split
  next hcnt =>
    rw [hcnt, Fin.val_zero] at h
    rw [List.length_nil]; omega
  next hcnt =>
    have hpos := Fin.val_ne_zero_iff.2 hcnt
    rw [List.length_singleton]; omega

/-- The pad bits stand behind the pending bits of the last byte and are 0. -/
theorem Writer.pad_bit_eq_false {w : Writer} (hjust : leftJustified w) (hstream : w.streaming) {k : Nat}
    (hge : w.total.toNat ≤ k) (hlt : k < 8 * w.pad.bytes.length) : bitAt w.pad.bytes k = some false := by
  have hcnt := w.cnt.isLt
  have hlen := Writer.pad_length hstream
  rw [Writer.streaming, Writer.len] at hstream
  have hbyte : k / 8 = w.bytes.length := by omega
  have hpending : w.cnt ≠ 0 := fun h => by simp only [h, Fin.val_zero] at hstream; omega
  rw [Writer.pad_bytes, if_neg hpending, bitAt, byteAt, hbyte, List.getElem?_concat_length, Option.map_some,
    Writer.acc_getLsbD_of_leftJustified hjust (by omega)]

theorem execPademit_of_opened {s : State} (hjust : leftJustified s.writer) (h : s.writer.state = .opened) :
    execPademit s = .next { s with
      writer := { s.writer with state := .done, bytes := s.writer.pad.bytes, acc := 0, cnt := 0 }
      out := answered s s.writer.total s.writer.pad.bytes } := by
  rw [execPademit, (pademitCheck_eq_none_iff s.writer).2 h, Writer.pad_eq_of_leftJustified hjust]; rfl

theorem execPademit_of_not_opened {s : State} (h : s.writer.state ≠ .opened) :
    execPademit s = .next (writerFault s .badState) := by
  rw [execPademit, pademitCheck, if_pos h, ← takeFault_writer]

theorem wStatus_create : wStatus Writer.create = 0x000001 := by decide

/-! ## The statements -/

/-- Settles O20: the writer that `WOPEN` creates does not depend on the state it comes from. -/
theorem wopenCreatesAnEmptyStream : Obligations.WopenCreatesAnEmptyStream :=
  fun _ => ⟨_, rfl, rfl, wStatus_create, rfl, rfl⟩

/-- Settles O21: `WRITE` is the checked append of `MemWrite`, which equals its closed form. -/
theorem writeAppendsTheLowBits : Obligations.WriteAppendsTheLowBits :=
  fun _ _ _ hjust => writeRule_of_exec_eq_appendBits rfl hjust

/-- Settles O23: the stream relation gives the number of bytes, the left-justified pending bits the zero padding. -/
theorem pademitEmitsTheStream : Obligations.PademitEmitsTheStream := by
  rintro s ⟨hjust, -, -, hstreaming, -⟩
  refine ⟨fun hopen => ⟨s.writer.pad.bytes, execPademit_of_opened hjust hopen, Writer.pad_bytes _, ?_⟩,
    execPademit_of_not_opened⟩
  have hlen := Writer.pad_length (hstreaming hopen)
  exact ⟨hlen, by omega, fun _ => Writer.pad_bit_eq_false hjust (hstreaming hopen)⟩

end Sys2Proof.Machine
end

section
/-! SUPPORT. `MemRead` as one number at the cursor, and the checks of the reader's commands in their order; then the
statements about `RLOAD`, `ROPEN`, `READ`, `READS` and `SKIP` (spec 20_memory.md R31, R33, 41_reader.md R90 to R99). -/

namespace Sys2Proof.Machine
open Sys2Proof.Spec

/-! ## A buffer as one number, most significant byte first -/

theorem bytesNat_concat (bs : List Byte) (b : Byte) : bytesNat (bs ++ [b]) = 256 * bytesNat bs + b.toNat := by
  simp [bytesNat]

/-- The bits of a buffer's number are those of its last byte, then those of the bytes before it. -/
theorem testBit_bytesNat_concat (bs : List Byte) (b : Byte) (j : Nat) :
    (bytesNat (bs ++ [b])).testBit j = if j < 8 then b.getLsbD j else (bytesNat bs).testBit (j - 8) := by
  rw [bytesNat_concat]
  exact Nat.testBit_two_pow_mul_add (bytesNat bs) b.isLt j

theorem bitAt_concat_of_lt {bs : List Byte} {k : Nat} (h : k < 8 * bs.length) (b : Byte) :
    bitAt (bs ++ [b]) k = bitAt bs k := by
  rw [bitAt, bitAt, byteAt, byteAt, List.getElem?_append_left (by omega)]

theorem bitAt_concat_last {bs : List Byte} {k : Nat} (h : k / 8 = bs.length) (b : Byte) :
    bitAt (bs ++ [b]) k = some (b.getLsbD (7 - k % 8)) := by
  rw [bitAt, byteAt, h, List.getElem?_concat_length, Option.map_some]

/-- The bit at bit address `k` is the `k`-th bit of the buffer's number from the top (20_memory.md R31). -/
theorem bitAt_eq_testBit {bs : List Byte} {k : Nat} (h : k < 8 * bs.length) :
    bitAt bs k = some ((bytesNat bs).testBit (8 * bs.length - 1 - k)) := by
  induction bs using List.reverseRecOn with
  | nil => exact absurd h (Nat.not_lt_zero k)
  | append_singleton bs b ih =>
    rw [List.length_append, List.length_singleton] at h ⊢
    rw [testBit_bytesNat_concat]
    by_cases hk : k < 8 * bs.length
    · rw [bitAt_concat_of_lt hk, ih hk, if_neg (by omega)]
      congr 2; omega
    · rw [bitAt_concat_last (by omega), if_pos (by omega)]
      congr 2; omega

/-! ## `MemRead` as the field at the cursor (20_memory.md R33) -/

theorem fieldAt_lt (bs : List Byte) (k n : Nat) : fieldAt bs k n < 2 ^ n :=
  Nat.mod_lt _ (Nat.two_pow_pos n)

@[simp] theorem fieldAt_zero (bs : List Byte) (k : Nat) : fieldAt bs k 0 = 0 :=
  Nat.mod_one _

/-- The first bit of a field is its most significant one. -/
theorem fieldAt_succ {bs : List Byte} {k n : Nat} (h : k + (n + 1) ≤ 8 * bs.length) : fieldAt bs k (n + 1) =
    ((bytesNat bs).testBit (8 * bs.length - 1 - k)).toNat * 2 ^ n + fieldAt bs (k + 1) n := by
  have hfirst : 8 * bs.length - (k + (n + 1)) + n = 8 * bs.length - 1 - k := by omega
  have hrest : 8 * bs.length - (k + (n + 1)) = 8 * bs.length - (k + 1 + n) := by omega
  rw [fieldAt, Nat.mod_pow_succ, Nat.div_div_eq_div_mul, ← Nat.pow_add, hfirst, ← Nat.toNat_testBit, hrest, fieldAt,
    Nat.mul_comm (2 ^ n), Nat.add_comm]

/-- The loop of `MemRead` puts the bits that it reads behind those that it has. -/
theorem memReadFrom_eq_fieldAt {bs : List Byte} {k n : Nat} (h : k + n ≤ 8 * bs.length) (v : Nat) :
    memReadFrom bs k v n = some (v * 2 ^ n + fieldAt bs k n) := by
  induction n generalizing k v with
  | zero => simp [memReadFrom]
  | succ n ih =>
    rw [memReadFrom, bitAt_eq_testBit (by omega)]
    dsimp only
    rw [ih (by omega), fieldAt_succ h]
    congr 1; ring

theorem memRead_eq_fieldAt {bs : List Byte} {k n : Nat} (h : k + n ≤ 8 * bs.length) :
    memRead bs k n = some (fieldAt bs k n) := by
  rw [memRead, memReadFrom_eq_fieldAt h, Nat.zero_mul, Nat.zero_add]

/-! ## The signed value of a field (00_scope.md R7) -/

/-- Bit `n - 1` of an `n`-bit number is 0 iff the number is below `2^(n-1)`. -/
theorem sext_eq_signedField {n v : Nat} (h : v < 2 ^ n) : sext n v = signedField n v := by
  unfold sext signedField
  by_cases hsmall : v < 2 ^ (n - 1)
  · rw [if_pos hsmall, Nat.testBit_lt_two_pow hsmall, if_neg Bool.false_ne_true]
  · have htop : v < 2 ^ (n - 1 + 1) := lt_of_lt_of_le h (Nat.pow_le_pow_right (by omega) (by omega))
    rw [if_neg hsmall, Nat.testBit_of_two_pow_le_and_two_pow_add_one_gt (Nat.le_of_not_lt hsmall) htop, if_pos rfl]

theorem signedField_range {n v : Nat} (hn : 1 ≤ n) (h : v < 2 ^ n) :
    -2 ^ (n - 1) ≤ signedField n v ∧ signedField n v < 2 ^ (n - 1) := by
  obtain ⟨m, rfl⟩ := Nat.exists_eq_add_of_le' hn
  rw [pow_succ] at h
  rw [signedField, Nat.add_sub_cancel, pow_succ]
  zify at h
  split
  next hsmall => zify at hsmall; omega
  next hlarge => zify at hlarge; omega

/-! ## The checks of the reader's commands, in their order (41_reader.md R90 to R99) -/

theorem rloadCheck_badLimit {c : Config} {p : List Byte} (h : c.rbufMaxBytes < p.length) :
    rloadCheck c p = some .badLimit := if_pos h

section
variable {b : ReaderBuffer} {limit : Nat}

theorem ropenCheck_badState (h : b.loaded = false) : ropenCheck b limit = some .badState := by
  simp [ropenCheck, h]

theorem ropenCheck_badLimit (hloaded : b.loaded = true) (h : 8 * b.bytes.length < limit) :
    ropenCheck b limit = some .badLimit := by
  simp [ropenCheck, bitLength, hloaded, h]

end

section
variable {rd : Reader} {n : Nat}

theorem readCheck_badState (h : rd.state ≠ .opened) : readCheck rd n = some .badState := if_pos h

theorem readCheck_illegalWidth (hopen : rd.state = .opened) (h : n < 1 ∨ 64 < n) :
    readCheck rd n = some .illegalWidth := by
  have hwidth : ¬ legalWidth n = true := by rw [legalWidth_iff]; omega
  simp [readCheck, hopen, hwidth]

theorem readCheck_streamExhausted (hopen : rd.state = .opened) (hmin : 1 ≤ n) (hmax : n ≤ 64)
    (h : rd.limit.toNat < rd.pos.toNat + n) : readCheck rd n = some .streamExhausted := by
  have hwidth : legalWidth n = true := (legalWidth_iff n).2 ⟨hmin, hmax⟩
  simp [readCheck, exhausted, hopen, hwidth, h]

theorem skipCheck_badState (h : rd.state ≠ .opened) : skipCheck rd n = some .badState := if_pos h

theorem skipCheck_streamExhausted (hopen : rd.state = .opened) (h : rd.limit.toNat < rd.pos.toNat + n) :
    skipCheck rd n = some .streamExhausted := by
  simp [skipCheck, exhausted, hopen, h]

/-- A cursor that stays within a 64-bit limit does not wrap. -/
theorem toNat_pos_add {count : Word64} (h : rd.pos.toNat + count.toNat ≤ rd.limit.toNat) :
    (rd.pos + count).toNat = rd.pos.toNat + count.toNat :=
  BitVec.toNat_add_of_lt (lt_of_le_of_lt h rd.limit.isLt)

end

/-! ## What the readers' commands answer -/

/-- Taking a fault of a reader in the words of 60_exceptions.md R134. -/
theorem takeFault_reader (s : State) (r : Nat) (c : FaultCode) : s.takeFault (.reader r) c = readerFault s r c := rfl

/-- Taking a fault of no unit in the words of 60_exceptions.md R135 and R136. -/
theorem takeFault_noUnit (s : State) (c : FaultCode) : s.takeFault .noUnit c = bareFault s c := rfl

theorem execRload_of_fits {s : State} {p : List Byte} (h : p.length ≤ s.cfg.rbufMaxBytes) :
    execRload p s = .next ((s.loadBuffer p).respond (.ok 0 [])) := by
  rw [execRload, (rloadCheck_eq_none_iff s.cfg p).2 h]

theorem execRload_of_badLimit {s : State} {p : List Byte} (h : s.cfg.rbufMaxBytes < p.length) :
    execRload p s = .next (bareFault s .badLimit) := by
  rw [execRload, rloadCheck_badLimit h, ← takeFault_noUnit]

section
variable {s : State} {r : BitVec 4} {rd : Reader}

theorem onReader_of_present (hrd : s.readers[r.toNat]? = some rd)
    (k : Reader → Host.Outcome State Fault Refusal) : onReader r s k = k rd := by
  rw [onReader, State.reader?, hrd]

/-- Modifying a reader that the block has puts the modified reader in its place. -/
theorem modifyReader_eq_set (hrd : s.readers[r.toNat]? = some rd) (f : Reader → Reader) :
    s.modifyReader r.toNat f = { s with readers := s.readers.set r.toNat (f rd) } := by
  rw [State.modifyReader, List.modify_eq_set_getElem?, hrd]; rfl

theorem execRopen_of_fault (hrd : s.readers[r.toNat]? = some rd) {limit : Word64} {c : FaultCode}
    (h : ropenCheck s.rbuf limit.toNat = some c) :
    execRopen r limit s = .next (readerFault s r.toNat c) := by
  rw [execRopen, onReader_of_present hrd, h, ← takeFault_reader]

theorem execRopen_of_legal (hrd : s.readers[r.toNat]? = some rd) {limit : Word64} (hloaded : s.rbuf.loaded = true)
    (hlimit : limit.toNat ≤ 8 * s.rbuf.bytes.length) : execRopen r limit s = .next { s with
      readers := s.readers.set r.toNat (Reader.create limit)
      out := answered s 0 [] } := by
  rw [execRopen, onReader_of_present hrd, (ropenCheck_eq_none_iff ..).2 ⟨hloaded, hlimit⟩, modifyReader_eq_set hrd]
  rfl

theorem execSkip_of_fault (hrd : s.readers[r.toNat]? = some rd) {count : Word64} {c : FaultCode}
    (h : skipCheck rd count.toNat = some c) : execSkip r count s = .next (readerFault s r.toNat c) := by
  rw [execSkip, onReader_of_present hrd, h, ← takeFault_reader]

theorem execSkip_of_legal (hrd : s.readers[r.toNat]? = some rd) {count : Word64} (hopen : rd.state = .opened)
    (hleft : rd.pos.toNat + count.toNat ≤ rd.limit.toNat) : execSkip r count s = .next { s with
      readers := s.readers.set r.toNat { rd with pos := rd.pos + count }
      out := answered s 0 [] } := by
  have hadvance : rd.advance count.toNat = { rd with pos := rd.pos + count } := by
    rw [Reader.advance, BitVec.ofNat_toNat, BitVec.setWidth_eq]
  rw [execSkip, onReader_of_present hrd, (skipCheck_eq_none_iff ..).2 ⟨hopen, hleft⟩, modifyReader_eq_set hrd,
    hadvance]
  rfl

variable {n : Nat} {extend : Nat → Word64}

theorem fetchBits_of_fault (hrd : s.readers[r.toNat]? = some rd) {c : FaultCode} (h : readCheck rd n = some c) :
    fetchBits r n extend s = .next (readerFault s r.toNat c) := by
  rw [fetchBits, onReader_of_present hrd, h, ← takeFault_reader]

/-- With the limit in the buffer every bit before the limit exists. -/
theorem fetchBits_of_legal (hrd : s.readers[r.toNat]? = some rd) (hlimit : rd.limit.toNat ≤ 8 * s.rbuf.bytes.length)
    (hopen : rd.state = .opened) (hmin : 1 ≤ n) (hmax : n ≤ 64) (hleft : rd.pos.toNat + n ≤ rd.limit.toNat) :
    fetchBits r n extend s = .next { s with
      readers := s.readers.set r.toNat (rd.advance n)
      out := answered s (extend (fieldAt s.rbuf.bytes rd.pos.toNat n)) [] } := by
  rw [fetchBits, onReader_of_present hrd, (readCheck_eq_none_iff ..).2 ⟨hopen, hmin, hmax, hleft⟩,
    memRead_eq_fieldAt (hleft.trans hlimit), modifyReader_eq_set hrd]
  rfl

/-- A command that is `fetchBits` follows the rule of `READ` and `READS`. -/
theorem readRule_of_exec_eq_fetchBits {i : Instr} (hexec : exec i s = fetchBits r n extend s)
    (hrd : s.readers[r.toNat]? = some rd) (hlimit : rd.limit.toNat ≤ 8 * s.rbuf.bytes.length) :
    readRule i r.toNat n (extend (fieldAt s.rbuf.bytes rd.pos.toNat n)) s rd := by
  rw [readRule, hexec]
  refine ⟨fun hopen hmin hmax hleft => ⟨fetchBits_of_legal hrd hlimit hopen hmin hmax hleft, ?_⟩,
    fun hstate => fetchBits_of_fault hrd (readCheck_badState hstate),
    fun hopen hwidth => fetchBits_of_fault hrd (readCheck_illegalWidth hopen hwidth),
    fun hopen hmin hmax hover => fetchBits_of_fault hrd (readCheck_streamExhausted hopen hmin hmax hover)⟩
  have hcount : (BitVec.ofNat 64 n).toNat = n := Nat.mod_eq_of_lt (by omega)
  rw [toNat_pos_add (by rwa [hcount]), hcount]

end

/-! ## The statements -/

/-- Settles O30: with the limit in the buffer, `MemRead` is the field at the cursor. -/
theorem readReturnsTheFieldAtTheCursor : Obligations.ReadReturnsTheFieldAtTheCursor :=
  fun _ _ _ _ hrd hlimit => ⟨readRule_of_exec_eq_fetchBits (extend := zext64) rfl hrd hlimit, fieldAt_lt ..⟩

/-- Settles O31: `READS` fetches as `READ` does, and extends the sign of a number of `N` bits. -/
theorem readsReturnsTheSignedField : Obligations.ReadsReturnsTheSignedField := by
  intro s r n rd hrd hlimit
  have hlt := fieldAt_lt s.rbuf.bytes rd.pos.toNat n.toNat
  refine ⟨?_, fun hn => signedField_range hn hlt⟩
  rw [← sext_eq_signedField hlt]
  exact readRule_of_exec_eq_fetchBits (extend := fun v => u64 (sext n.toNat v)) rfl hrd hlimit

/-- Settles O27: the one check compares the payload's length with the buffer's capacity. -/
theorem rloadReplacesTheBuffer : Obligations.RloadReplacesTheBuffer :=
  fun _ _ => ⟨execRload_of_fits, execRload_of_badLimit⟩

/-- Settles O28: the checks read the buffer alone, so the reader's own state plays no part. -/
theorem ropenConstructsTheReader : Obligations.RopenConstructsTheReader :=
  fun _ _ _ _ hrd => ⟨execRopen_of_legal hrd, fun hempty => execRopen_of_fault hrd (ropenCheck_badState hempty),
    fun hloaded hbeyond => execRopen_of_fault hrd (ropenCheck_badLimit hloaded hbeyond)⟩

/-- Settles O32: the comparison is on natural numbers, and a cursor within its limit does not wrap. -/
theorem skipMovesTheCursorForward : Obligations.SkipMovesTheCursorForward :=
  fun _ _ _ _ hrd => ⟨fun hopen hleft => ⟨execSkip_of_legal hrd hopen hleft, toNat_pos_add hleft⟩,
    fun hstate => execSkip_of_fault hrd (skipCheck_badState hstate),
    fun hopen hbeyond => execSkip_of_fault hrd (skipCheck_streamExhausted hopen hbeyond)⟩

end Sys2Proof.Machine
end

section
/-! SUPPORT. A command of another unit runs beside the CRC unit without reading or writing it, and a CRC command answers
from its operands alone; then the statement that checksum outcomes are advisory (spec 42_crc.md R115 to R118). -/

namespace Sys2Proof.Machine
open Sys2Proof.Spec

/-! ## Commands of other units: the outcome with other contents of the CRC unit -/

/-- The second outcome is the first with the CRC unit's contents `c` in place of those of `s`, which the first keeps. -/
inductive AgreesOutsideCrc (s : State) (c : CrcStatus) :
    Host.Outcome State Fault Refusal → Host.Outcome State Fault Refusal → Prop
  | next (t : State) (kept : t.crc = s.crc) : AgreesOutsideCrc s c (.next t) (.next (t.setCrc c))
  | fault (f : Fault) : AgreesOutsideCrc s c (.fault f) (.fault f)

/-- What `m` does outside the CRC unit does not depend on that unit's contents, and `m` keeps them. -/
def IgnoresCrc (m : State → Host.Outcome State Fault Refusal) : Prop :=
  ∀ s c, AgreesOutsideCrc s c (m s) (m (s.setCrc c))

section
variable {s t : State} {c : CrcStatus} {o : Host.Outcome State Fault Refusal}

theorem AgreesOutsideCrc.of_next (h : AgreesOutsideCrc s c (.next t) o) : o = .next (t.setCrc c) ∧ t.crc = s.crc := by
  cases h with
  | next _ kept => exact ⟨rfl, kept⟩

theorem AgreesOutsideCrc.of_fault {f : Fault} (h : AgreesOutsideCrc s c (.fault f) o) : o = .fault f := by
  cases h; rfl

end

theorem setCrc_takeFault (s : State) (c : CrcStatus) (u : FaultUnit) (f : FaultCode) :
    (s.setCrc c).takeFault u f = (s.takeFault u f).setCrc c := by
  cases u <;> rfl

/-- No fault entry reads or writes the CRC unit. -/
theorem agreesOutsideCrc_takeFault (s : State) (c : CrcStatus) (u : FaultUnit) (f : FaultCode) :
    AgreesOutsideCrc s c (.next (s.takeFault u f)) (.next ((s.setCrc c).takeFault u f)) := by
  rw [setCrc_takeFault]
  exact .next _ (s.takeFault_crc u f)

theorem execWopen_ignoresCrc : IgnoresCrc execWopen :=
  fun _ _ => .next _ rfl

theorem appendBits_ignoresCrc (n v : Nat) : IgnoresCrc (appendBits n v) := by
  intro s c
  rw [appendBits, appendBits, State.setCrc_cfg, State.setCrc_writer]
  cases writeCheck s.cfg s.writer n with
  | some f => exact agreesOutsideCrc_takeFault s c .writer f
  | none => exact .next _ rfl

theorem execPademit_ignoresCrc : IgnoresCrc execPademit := by
  intro s c
  rw [execPademit, execPademit, State.setCrc_writer]
  cases pademitCheck s.writer with
  | some f => exact agreesOutsideCrc_takeFault s c .writer f
  | none => exact .next _ rfl

theorem execRload_ignoresCrc (p : List Byte) : IgnoresCrc (execRload p) := by
  intro s c
  rw [execRload, execRload, State.setCrc_cfg]
  cases rloadCheck s.cfg p with
  | some f => exact agreesOutsideCrc_takeFault s c .noUnit f
  | none => exact .next _ rfl

/-- A reader command ignores the CRC unit if what it does to each reader does. -/
theorem onReader_ignoresCrc {r : BitVec 4} {k : State → Reader → Host.Outcome State Fault Refusal}
    (h : ∀ rd s c, AgreesOutsideCrc s c (k s rd) (k (s.setCrc c) rd)) : IgnoresCrc fun s => onReader r s (k s) := by
  intro s c
  dsimp only [onReader, State.reader?, State.setCrc_readers]
  cases s.readers[r.toNat]? with
  | some rd => exact h rd s c
  | none => exact agreesOutsideCrc_takeFault s c .noUnit .illegalCommand

theorem execRopen_ignoresCrc (r : BitVec 4) (limit : Word64) : IgnoresCrc (execRopen r limit) := by
  refine onReader_ignoresCrc fun _ s c => ?_
  rw [State.setCrc_rbuf]
  cases ropenCheck s.rbuf limit.toNat with
  | some f => exact agreesOutsideCrc_takeFault s c (.reader r.toNat) f
  | none => exact .next _ rfl

theorem fetchBits_ignoresCrc (r : BitVec 4) (n : Nat) (extend : Nat → Word64) :
    IgnoresCrc (fetchBits r n extend) := by
  refine onReader_ignoresCrc fun rd s c => ?_
  cases readCheck rd n with
  | some f => exact agreesOutsideCrc_takeFault s c (.reader r.toNat) f
  | none =>
    rw [State.setCrc_rbuf]
    cases memRead s.rbuf.bytes rd.pos.toNat n with
    | some v => exact .next _ rfl
    | none => exact .fault .rbufOutOfRange

theorem execSkip_ignoresCrc (r : BitVec 4) (count : Word64) : IgnoresCrc (execSkip r count) := by
  refine onReader_ignoresCrc fun rd s c => ?_
  cases skipCheck rd count.toNat with
  | some f => exact agreesOutsideCrc_takeFault s c (.reader r.toNat) f
  | none => exact .next _ rfl

theorem exec_ignoresCrc {i : Instr} (h : unitOf i ≠ .crc) : IgnoresCrc (exec i) := by
  cases i with
  | wopen => exact execWopen_ignoresCrc
  | write n v => exact appendBits_ignoresCrc _ _
  | writes n v => exact appendBits_ignoresCrc _ _
  | pademit => exact execPademit_ignoresCrc
  | rload p => exact execRload_ignoresCrc p
  | ropen r v => exact execRopen_ignoresCrc r v
  | read r n => exact fetchBits_ignoresCrc _ _ _
  | reads r n => exact fetchBits_ignoresCrc _ _ _
  | skip r v => exact execSkip_ignoresCrc r v
  | crc32 p => exact absurd rfl h
  | crcchk x p => exact absurd rfl h

/-! ## CRC commands -/

/-- A CRC command updates the CRC unit and gives one response, the same from every state; what it leaves in the unit
does not depend on what it found there, `C.expect` apart (42_crc.md R115, R117). -/
theorem exec_of_crcUnit {i : Instr} (h : unitOf i = .crc) : ∃ (update : CrcStatus → CrcStatus) (r : Response),
    (∀ s, exec i s = .next ((s.setCrc (update s.crc)).respond r)) ∧
    ∀ a b, { update a with expect := (update b).expect } = update b := by
  cases i with
  | crc32 p => exact ⟨(·.computed (crcOf p)), _, fun _ => rfl, fun _ _ => rfl⟩
  | crcchk x p => exact ⟨fun _ => .compared (crcOf p) x, _, fun _ => rfl, fun _ _ => rfl⟩
  | _ => cases h

/-! ## The statement -/

/-- Settles O42: a CRC command answers the same from every state, and every other command ignores the CRC unit. -/
theorem checksumOutcomesAreAdvisory : Obligations.ChecksumOutcomesAreAdvisory := by
  intro i s c
  by_cases hunit : unitOf i = .crc
  · obtain ⟨update, r, hexec, houtcome⟩ := exec_of_crcUnit hunit
    rw [hexec, hexec]
    refine ⟨?_, fun f h => nomatch h⟩
    rintro t ⟨⟩
    exact ⟨_, rfl, rfl, fun hother => absurd hunit hother, fun _ => houtcome c s.crc⟩
  · have hagrees : AgreesOutsideCrc s c (exec i s) (exec i { s with crc := c }) := exec_ignoresCrc hunit s c
    refine ⟨fun t h => ?_, fun f h => (h ▸ hagrees).of_fault⟩
    obtain ⟨hnext, hkept⟩ := (h ▸ hagrees).of_next
    exact ⟨t.setCrc c, hnext, rfl, fun _ => ⟨hkept, rfl⟩, fun hcrc => absurd hcrc hunit⟩

end Sys2Proof.Machine
end

section
/-! SUPPORT. What a command of each unit can do, with the condition under which it does it; then the statements about
faults and FAULTED units (spec 60_exceptions.md R133 to R137). -/

namespace Sys2Proof.Machine
open Sys2Proof.Spec

/-! ## What a command can do to its unit -/

/-- Everything command `i` can do when the machine goes on, by the unit it addresses: the unit's fault entry, or its
success with the response and the unit's state that the success requires. -/
inductive UnitEffect (i : Instr) (s : State) : State → Prop
  | writerFaulted (hunit : unitOf i = .writer) (c : FaultCode) : UnitEffect i s (s.takeFault .writer c)
  | streamed (hunit : unitOf i = .writer) (hopen : i = .wopen ∨ s.writer.state = .opened) (w : Writer) (v : Word64)
      (p : List Byte) : UnitEffect i s ((s.setWriter w).respond (.ok v p))
  | loadRefused (hunit : unitOf i = .buffer) : UnitEffect i s (s.takeFault .noUnit .badLimit)
  | loaded {p : List Byte} (hrload : i = .rload p) (hfits : p.length ≤ s.cfg.rbufMaxBytes) :
      UnitEffect i s ((s.loadBuffer p).respond (.ok 0 []))
  | readerMissing {r : BitVec 4} (hunit : unitOf i = .reader r) (hmissing : s.readers[r.toNat]? = none) :
      UnitEffect i s (s.takeFault .noUnit .illegalCommand)
  | readerFaulted {r : BitVec 4} (hunit : unitOf i = .reader r) (c : FaultCode) :
      UnitEffect i s (s.takeFault (.reader r.toNat) c)
  | constructed {r : BitVec 4} {v : Word64} (hropen : i = .ropen r v) :
      UnitEffect i s ((s.modifyReader r.toNat fun _ => Reader.create v).respond (.ok 0 []))
  | advanced {r : BitVec 4} {rd : Reader} (hunit : unitOf i = .reader r) (hpresent : s.readers[r.toNat]? = some rd)
      (hopen : rd.state = .opened) (n : Nat) (v : Word64) :
      UnitEffect i s ((s.modifyReader r.toNat (·.advance n)).respond (.ok v []))
  | checked (hunit : unitOf i = .crc) (c : CrcStatus) (r : Response) (hnofault : ∀ f, r ≠ .fault f) :
      UnitEffect i s ((s.setCrc c).respond r)

section
variable {i : Instr} {s t : State} {r : BitVec 4}

theorem appendBits_unitEffect {n v : Nat} (hunit : unitOf i = .writer) (h : appendBits n v s = .next t) :
    UnitEffect i s t := by
  rcases appendBits_cases n v s with ⟨c, -, e⟩ | ⟨hcheck, e⟩ <;> cases e.symm.trans h
  · exact .writerFaulted hunit c
  · obtain ⟨hopen, -⟩ := (writeCheck_eq_none_iff ..).1 hcheck
    exact .streamed hunit (.inr hopen) ..

theorem execPademit_unitEffect (h : execPademit s = .next t) : UnitEffect .pademit s t := by
  rcases execPademit_cases s with ⟨c, -, e⟩ | ⟨hcheck, e⟩ <;> cases e.symm.trans h
  · exact .writerFaulted rfl c
  · exact .streamed rfl (.inr ((pademitCheck_eq_none_iff _).1 hcheck)) ..

theorem execRload_unitEffect {p : List Byte} (h : execRload p s = .next t) : UnitEffect (.rload p) s t := by
  by_cases hfits : p.length ≤ s.cfg.rbufMaxBytes
  · cases (execRload_of_fits hfits).symm.trans h
    exact .loaded rfl hfits
  · cases (execRload_of_badLimit (Nat.lt_of_not_le hfits)).symm.trans h
    exact .loadRefused rfl

theorem execRopen_unitEffect {v : Word64} (h : execRopen r v s = .next t) : UnitEffect (.ropen r v) s t := by
  rcases execRopen_cases r v s with ⟨hmissing, e⟩ | ⟨rd, -, ⟨c, -, e⟩ | ⟨-, e⟩⟩ <;> cases e.symm.trans h
  · exact .readerMissing rfl hmissing
  · exact .readerFaulted rfl c
  · exact .constructed rfl

theorem fetchBits_unitEffect {n : Nat} {extend : Nat → Word64} (hunit : unitOf i = .reader r)
    (h : fetchBits r n extend s = .next t) : UnitEffect i s t := by
  rcases fetchBits_cases r n extend s with
      ⟨hmissing, e⟩ | ⟨rd, hpresent, ⟨c, -, e⟩ | ⟨hcheck, ⟨v, -, e⟩ | ⟨-, e⟩⟩⟩ <;> cases e.symm.trans h
  · exact .readerMissing hunit hmissing
  · exact .readerFaulted hunit c
  · obtain ⟨hopen, -⟩ := (readCheck_eq_none_iff ..).1 hcheck
    exact .advanced hunit hpresent hopen n _

theorem execSkip_unitEffect {v : Word64} (h : execSkip r v s = .next t) : UnitEffect (.skip r v) s t := by
  rcases execSkip_cases r v s with ⟨hmissing, e⟩ | ⟨rd, hpresent, ⟨c, -, e⟩ | ⟨hcheck, e⟩⟩ <;>
    cases e.symm.trans h
  · exact .readerMissing rfl hmissing
  · exact .readerFaulted rfl c
  · obtain ⟨hopen, -⟩ := (skipCheck_eq_none_iff ..).1 hcheck
    exact .advanced rfl hpresent hopen _ _

theorem execCrcchk_unitEffect {x : CrcWord} {p : List Byte} (h : execCrcchk x p s = .next t) :
    UnitEffect (.crcchk x p) s t := by
  cases h
  exact .checked rfl _ _ fun f => by split <;> exact nofun

theorem exec_unitEffect (h : exec i s = .next t) : UnitEffect i s t := by
  cases i with
  | wopen => cases h; exact .streamed rfl (.inl rfl) ..
  | write n v => exact appendBits_unitEffect rfl h
  | writes n v => exact appendBits_unitEffect rfl h
  | pademit => exact execPademit_unitEffect h
  | rload p => exact execRload_unitEffect h
  | ropen r v => exact execRopen_unitEffect h
  | read r n => exact fetchBits_unitEffect rfl h
  | reads r n => exact fetchBits_unitEffect rfl h
  | skip r v => exact execSkip_unitEffect h
  | crc32 p => cases h; exact .checked rfl _ _ nofun
  | crcchk x p => exact execCrcchk_unitEffect h

end

/-! ## The response tells a fault (60_exceptions.md R133) -/

/-- The one response of a command is the last output. -/
theorem response_eq_of_out_eq {s u : State} {r r' : Response} (hkept : u.out = s.out)
    (h : (u.respond r).out = s.out ++ [.response r']) : r = r' := by
  simpa [hkept] using h

theorem code_eq_of_takeFault_out {s : State} {u : FaultUnit} {c c' : FaultCode}
    (h : (s.takeFault u c').out = s.out ++ [.response (.fault c)]) : c' = c := by
  simpa using h

/-! ## A FAULTED unit keeps its contents and its first code (60_exceptions.md R137) -/

theorem Writer.enterFault_of_faulted {w : Writer} (h : w.state = .faulted) (c : FaultCode) : w.enterFault c = w :=
  if_pos h

theorem Reader.enterFault_of_faulted {rd : Reader} (h : rd.state = .faulted) (c : FaultCode) :
    rd.enterFault c = rd :=
  if_pos h

theorem modify_eq_self_of_fixed {l : List Reader} {r : Nat} {rd : Reader} {f : Reader → Reader}
    (hrd : l[r]? = some rd) (hfixed : f rd = rd) : l.modify r f = l := by
  refine List.ext_getElem? fun q => ?_
  by_cases hq : r = q
  · subst hq; simp [hrd, hfixed]
  · simp [hq]

/-- Reader `q` stays what it is when reader `r` is modified: it is another one, or the modification fixes it. -/
theorem getElem?_modify_of_fixed {l : List Reader} {q r : Nat} {rd : Reader} {f : Reader → Reader}
    (hrd : l[q]? = some rd) (hfixed : r = q → f rd = rd) : (l.modify r f)[q]? = some rd := by
  by_cases hq : r = q
  · subst hq; rwa [modify_eq_self_of_fixed hrd (hfixed rfl)]
  · simpa [hq] using hrd

theorem writerFault_of_faulted {s : State} (h : s.writer.state = .faulted) (c : FaultCode) :
    writerFault s c = bareFault s c := by
  rw [writerFault, if_pos h, bareFault]

theorem readerFault_of_faulted {s : State} {r : Nat} {rd : Reader} (hrd : s.readers[r]? = some rd)
    (h : rd.state = .faulted) (c : FaultCode) : readerFault s r c = bareFault s c := by
  rw [readerFault, bareFault, modify_eq_self_of_fixed hrd]
  exact if_pos h

section
variable {s t : State} {i : Instr}

/-- All work of the writer on a FAULTED one answers `BadState`. -/
theorem exec_of_faulted_writer (h : s.writer.state = .faulted) {n : BitVec 8} {v : Word64}
    (hi : i ∈ [Instr.write n v, .writes n v, .pademit]) : exec i s = .next (bareFault s .badState) := by
  have hclosed : s.writer.state ≠ .opened := by simp [h]
  rw [← writerFault_of_faulted h]
  simp only [List.mem_cons, List.not_mem_nil, or_false] at hi
  rcases hi with rfl | rfl | rfl
  · exact appendBits_of_fault (writeCheck_badState hclosed)
  · exact appendBits_of_fault (writeCheck_badState hclosed)
  · exact execPademit_of_not_opened hclosed

/-- All work of a FAULTED reader answers `BadState`. -/
theorem exec_of_faulted_reader {r : BitVec 4} {rd : Reader} (hrd : s.readers[r.toNat]? = some rd)
    (h : rd.state = .faulted) {n : BitVec 8} {v : Word64} (hi : i ∈ [Instr.read r n, .reads r n, .skip r v]) :
    exec i s = .next (bareFault s .badState) := by
  have hclosed : rd.state ≠ .opened := by simp [h]
  rw [← readerFault_of_faulted hrd h]
  simp only [List.mem_cons, List.not_mem_nil, or_false] at hi
  rcases hi with rfl | rfl | rfl
  · exact fetchBits_of_fault hrd (readCheck_badState hclosed)
  · exact fetchBits_of_fault hrd (readCheck_badState hclosed)
  · exact execSkip_of_fault hrd (skipCheck_badState hclosed)

/-- A FAULTED writer is kept whole by every command but `WOPEN`. -/
theorem UnitEffect.faulted_writer_kept (h : UnitEffect i s t) (hfaulted : s.writer.state = .faulted) :
    i = .wopen ∨ t.writer = s.writer := by
  cases h with
  | writerFaulted _ c => exact .inr (Writer.enterFault_of_faulted hfaulted c)
  | streamed hunit hopen => exact hopen.imp_right fun hopen => by simp [hfaulted] at hopen
  | _ => exact .inr rfl

/-- A FAULTED reader is kept whole by every command but a successful `RLOAD` and a successful `ROPEN` of it. -/
theorem UnitEffect.faulted_reader_kept {q : Nat} {rd : Reader} (h : UnitEffect i s t)
    (hrd : s.readers[q]? = some rd) (hfaulted : rd.state = .faulted) :
    (∃ p, i = .rload p ∧ p.length ≤ s.cfg.rbufMaxBytes) ∨
      (∃ r v, i = .ropen r v ∧ r.toNat = q ∧ t.readers[q]? = some (Reader.create v)) ∨ t.readers[q]? = some rd := by
  cases h with
  | loaded hrload hfits => exact .inl ⟨_, hrload, hfits⟩
  | readerFaulted _ c =>
    exact .inr (.inr (getElem?_modify_of_fixed hrd fun _ => Reader.enterFault_of_faulted hfaulted c))
  | @constructed r v hropen =>
    by_cases hq : r.toNat = q
    · exact .inr (.inl ⟨r, v, hropen, hq, by simp [hq, hrd]⟩)
    · exact .inr (.inr (getElem?_modify_of_fixed hrd fun h => absurd h hq))
  | advanced _ hpresent hopen =>
    refine .inr (.inr (getElem?_modify_of_fixed hrd ?_))
    rintro rfl
    cases hpresent.symm.trans hrd
    simp [hfaulted] at hopen
  | _ => exact .inr (.inr hrd)

/-- A step serves a reset or a decoded command, or changes no unit: idling, a register read, a rejected word. -/
theorem step_units_kept (h : step s = .next t) :
    (∃ rest, s.pending = .reset :: rest) ∨
    (∃ c rest i, s.pending = .command c :: rest ∧ decode s.numReaders c.word c.payload = .ok i ∧
      exec i { s with pending := rest } = .next t) ∨
    (t.writer = s.writer ∧ t.readers = s.readers) := by
  rcases step_cases s with ⟨hidle, -⟩ | ⟨e, rest, hpending, -⟩
  · cases (step_of_idle hidle).symm.trans h
    exact .inr (.inr ⟨rfl, rfl⟩)
  · have hserve : serveEvent e { s with pending := rest } = .next t := (step_of_pending hpending).symm.trans h
    cases e with
    | reset => exact .inl ⟨rest, hpending⟩
    | regRead a => cases hserve; exact .inr (.inr ⟨rfl, rfl⟩)
    | command c =>
      cases hdecode : decode s.numReaders c.word c.payload with
      | ok i =>
        exact .inr (.inl ⟨c, rest, i, hpending, hdecode,
          (runCommand_of_ok (s := { s with pending := rest }) hdecode).symm.trans hserve⟩)
      | error e =>
        cases (runCommand_of_error (s := { s with pending := rest }) hdecode).symm.trans hserve
        exact .inr (.inr ⟨rfl, rfl⟩)

end

/-! ## The statements -/

/-- Settles O43: the response tells a fault entry from a success, and each unit has one fault entry. -/
theorem faultsArePrecise : Obligations.FaultsArePrecise := by
  intro i s t c hexec hout
  cases exec_unitEffect hexec with
  | writerFaulted hunit =>
    cases code_eq_of_takeFault_out hout
    rw [hunit]; rfl
  | streamed => cases response_eq_of_out_eq rfl hout
  | loadRefused hunit =>
    cases code_eq_of_takeFault_out hout
    rw [hunit]; exact ⟨rfl, rfl⟩
  | loaded => cases response_eq_of_out_eq rfl hout
  | readerMissing hunit hmissing =>
    rw [hunit]
    exact fun hpresent => absurd hpresent (Nat.not_lt.2 (List.getElem?_eq_none_iff.1 hmissing))
  | readerFaulted hunit =>
    cases code_eq_of_takeFault_out hout
    rw [hunit]; exact fun _ => rfl
  | constructed => cases response_eq_of_out_eq rfl hout
  | advanced => cases response_eq_of_out_eq rfl hout
  | checked hunit _ r hnofault => exact absurd (response_eq_of_out_eq rfl hout) (hnofault c)

/-- Settles O44: no work passes a FAULTED unit's first check, and its fault entry leaves it as it is. -/
theorem faultedUnitsRefuseAllWork : Obligations.FaultedUnitsRefuseAllWork := by
  refine ⟨fun s n v h i hi => exec_of_faulted_writer h hi, fun s r n v rd hrd h i hi => exec_of_faulted_reader hrd h hi,
    fun i s t hexec h => ?_, fun i s t q rd hexec hrd h => (exec_unitEffect hexec).faulted_reader_kept hrd h,
    fun s t => step_units_kept⟩
  refine ((exec_unitEffect hexec).faulted_writer_kept h).imp_right fun hkept => ?_
  rw [hkept]
  exact ⟨h, rfl⟩

end Sys2Proof.Machine
end

section
/-! SUPPORT. What a step does to the elements when a reset waits, and to `FAULT_LOG` when none does; then the statement
about reset (spec 70_reset_and_hazards.md R150). -/

namespace Sys2Proof.Machine

/-- A waiting reset is served whole: the block is reset, and only that event leaves the port. -/
theorem step_of_reset {s : State} {rest : List PortEvent} (h : s.pending = .reset :: rest) :
    step s = .next { s with pending := rest }.resetBlock :=
  step_of_pending h

/-- Idling keeps `FAULT_LOG`, and every event but a reset only adds bits to it. -/
theorem step_log_kept {s t : State} (noReset : ∀ rest, s.pending ≠ .reset :: rest) (h : step s = .next t) :
    s.faultLog &&& t.faultLog = s.faultLog := by
  rcases step_cases s with ⟨hidle, -⟩ | ⟨e, rest, hpending, -⟩
  · cases (step_of_idle hidle).symm.trans h
    exact BitVec.and_self
  · have hne : e ≠ .reset := by
      rintro rfl
      exact noReset rest hpending
    obtain ⟨_, ho⟩ := serveEvent_delivers hne ((step_of_pending hpending).symm.trans h)
    exact ho.log_kept

/-- Settles O9: the next state is `resetBlock`'s, and a step that serves no reset keeps every bit of `FAULT_LOG`. -/
theorem resetPutsEveryElementAtItsResetValue : Obligations.ResetPutsEveryElementAtItsResetValue := by
  refine ⟨fun s rest hpending => ?_, fun s t h => ?_⟩
  · exact ⟨_, step_of_reset hpending, rfl, rfl, List.length_replicate, fun _ hrd => List.eq_of_mem_replicate hrd,
      rfl, rfl⟩
  · by_cases hreset : ∃ rest, s.pending = .reset :: rest
    · exact .inl hreset
    · exact .inr (step_log_kept (not_exists.1 hreset) h)

end Sys2Proof.Machine
end

section
/-! SUPPORT. The decoder inverted: which header a word has, when a payload completes it, and that the words of decoded
commands are the encoder's; then the round trips and the sample words (spec 30_encoding.md R50 to R56). -/

namespace Sys2Proof

section
variable {numReaders : Nat} {w : CommandWord} {payload : List Byte} {i : Instr}

/-! ## The tests of the decoder, passed -/

theorem requireZero_eq_ok_iff {z : Bool} {e : Except DecodeError Header} {h : Header} :
    requireZero z e = .ok h ↔ z = true ∧ e = .ok h := by
  cases z <;> simp [requireZero]

theorem requireReader_eq_ok_iff {h : Header} :
    requireReader numReaders w i = .ok h ↔ readerInRange numReaders (rField w) = true ∧ Header.plain i = h := by
  unfold requireReader
  split <;> simp_all

/-- A word with its payload decodes iff the word has a header whose length the payload meets. -/
theorem decode_eq_ok_iff : decode numReaders w payload = .ok i ↔
    ∃ h, decodeHeader numReaders w = .ok h ∧ payload.length = h.payloadLength ∧ h.instr payload = i := by
  unfold decode attachPayload
  cases decodeHeader numReaders w with
  | error e => simp
  | ok h => by_cases hlen : payload.length = h.payloadLength <;> simp [hlen]

/-! ## Decoding an encoded command -/

theorem decode_of_plain (h : decodeHeader numReaders w = .ok (.plain i)) : decode numReaders w [] = .ok i :=
  decode_eq_ok_iff.2 ⟨_, h, rfl, rfl⟩

/-- `LEN` counts every payload that fits it. -/
theorem decode_of_payload {instr : List Byte → Instr}
    (h : decodeHeader numReaders w = .ok ⟨(BitVec.ofNat 32 payload.length).toNat, instr⟩)
    (hfits : payloadFits payload = true) : decode numReaders w payload = .ok (instr payload) :=
  decode_eq_ok_iff.2 ⟨_, h, (Nat.mod_eq_of_lt (of_decide_eq_true hfits)).symm, rfl⟩

/-! ## Encoding a decoded command -/

theorem ofNat_length_of_eq_lenField (h : payload.length = (lenField w).toNat) :
    BitVec.ofNat 32 payload.length = lenField w := by
  rw [h, BitVec.ofNat_toNat, BitVec.setWidth_eq]

theorem payloadFits_of_eq_lenField (h : payload.length = (lenField w).toNat) : payloadFits payload = true :=
  decide_eq_true (h ▸ (lenField w).isLt)

/-- The word is the encoder's word of the command and the payload the one the command carries, on a block that has the
command's reader. -/
def Encodes (numReaders : Nat) (i : Instr) (w : CommandWord) (payload : List Byte) : Prop :=
  encode i = ⟨w, payload⟩ ∧ WellFormed numReaders i = true

/-- What a header completes to, with a payload of the length it asks for, encodes to the word of the header. -/
def Header.Encodes (numReaders : Nat) (h : Header) (w : CommandWord) : Prop :=
  ∀ payload : List Byte, payload.length = h.payloadLength → Sys2Proof.Encodes numReaders (h.instr payload) w payload

/-- A word is the command word of the fields that it has. -/
theorem commandWord_of_fields {op r : BitVec 4} {n : BitVec 8} {v : Word64} (hop : (opField w).toNat = op.toNat)
    (hr : rField w = r) (hn : nField w = n) (hv : vField w = v) : commandWord op r n v = w := by
  rw [← commandWord_fields w, BitVec.eq_of_toNat_eq hop, hr, hn, hv]

theorem vField_of_payload {x : CrcWord} (hlen : payload.length = (lenField w).toNat) (hx : xField w = x) :
    vField w = lenX (BitVec.ofNat 32 payload.length) x := by
  rw [← lenX_fields, ofNat_length_of_eq_lenField hlen, hx]

theorem plain_encodes (hpayload : i.payload = []) (hword : encodeWord i = w) (hwf : WellFormed numReaders i = true) :
    (Header.plain i).Encodes numReaders w := by
  intro payload hlen
  rw [List.eq_nil_of_length_eq_zero hlen, ← hpayload, ← hword]
  exact ⟨rfl, hwf⟩

theorem decodeHeader_encodes {h : Header} (hok : decodeHeader numReaders w = .ok h) : h.Encodes numReaders w := by
  unfold decodeHeader at hok
  split at hok <;>
    simp only [requireZero_eq_ok_iff, requireReader_eq_ok_iff, Bool.and_eq_true, beq_iff_eq, Except.ok.injEq,
      reduceCtorEq] at hok
  next hop => -- WOPEN
    obtain ⟨⟨⟨hr, hn⟩, hv⟩, rfl⟩ := hok
    exact plain_encodes rfl (commandWord_of_fields hop hr hn hv) rfl
  next hop => -- WRITE
    obtain ⟨hr, rfl⟩ := hok
    exact plain_encodes rfl (commandWord_of_fields hop hr rfl rfl) rfl
  next hop => -- WRITES
    obtain ⟨hr, rfl⟩ := hok
    exact plain_encodes rfl (commandWord_of_fields hop hr rfl rfl) rfl
  next hop => -- PADEMIT
    obtain ⟨⟨⟨hr, hn⟩, hv⟩, rfl⟩ := hok
    exact plain_encodes rfl (commandWord_of_fields hop hr hn hv) rfl
  next hop => -- RLOAD
    obtain ⟨⟨⟨hr, hn⟩, hx⟩, rfl⟩ := hok
    exact fun _ hlen => ⟨congrArg (Command.mk · _) (commandWord_of_fields hop hr hn (vField_of_payload hlen hx)),
      payloadFits_of_eq_lenField hlen⟩
  next hop => -- ROPEN
    obtain ⟨hn, hreader, rfl⟩ := hok
    exact plain_encodes rfl (commandWord_of_fields hop rfl hn rfl) hreader
  next hop => -- READ
    obtain ⟨hv, hreader, rfl⟩ := hok
    exact plain_encodes rfl (commandWord_of_fields hop rfl rfl hv) hreader
  next hop => -- READS
    obtain ⟨hv, hreader, rfl⟩ := hok
    exact plain_encodes rfl (commandWord_of_fields hop rfl rfl hv) hreader
  next hop => -- SKIP
    obtain ⟨hn, hreader, rfl⟩ := hok
    exact plain_encodes rfl (commandWord_of_fields hop rfl hn rfl) hreader
  next hop => -- CRC32
    obtain ⟨⟨⟨hr, hn⟩, hx⟩, rfl⟩ := hok
    exact fun _ hlen => ⟨congrArg (Command.mk · _) (commandWord_of_fields hop hr hn (vField_of_payload hlen hx)),
      payloadFits_of_eq_lenField hlen⟩
  next hop => -- CRCCHK
    obtain ⟨⟨hr, hn⟩, rfl⟩ := hok
    exact fun _ hlen => ⟨congrArg (Command.mk · _) (commandWord_of_fields hop hr hn (vField_of_payload hlen rfl)),
      payloadFits_of_eq_lenField hlen⟩

end

/-! ## The statements -/

open Sys2Proof.Machine Laws

/-- Settles O1: the word of each command passes the tests of its row, and `LEN` counts its payload. -/
theorem decodeOfEncodeIsTheCommand : Obligations.DecodeOfEncodeIsTheCommand := by
  intro numReaders i hwf
  cases i with
  | wopen =>
    refine decode_of_plain ?_
    simpa [encode, encodeWord, requireZero] using decodeHeader_wopen (OpcodeField.wopen)
  | write n v =>
    refine decode_of_plain ?_
    simpa [encode, encodeWord, requireZero] using decodeHeader_write (OpcodeField.write n v)
  | writes n v =>
    refine decode_of_plain ?_
    simpa [encode, encodeWord, requireZero] using decodeHeader_writes (OpcodeField.writes n v)
  | pademit =>
    refine decode_of_plain ?_
    simpa [encode, encodeWord, requireZero] using decodeHeader_pademit (OpcodeField.pademit)
  | rload p =>
    refine decode_of_payload ?_ hwf
    simpa [encode, encodeWord, Instr.payload, requireZero, -BitVec.toNat_ofNat] using
      decodeHeader_rload (OpcodeField.rload p)
  | ropen r v =>
    have hreader : readerInRange numReaders r = true := hwf
    refine decode_of_plain ?_
    simpa [encode, encodeWord, requireZero, requireReader, hreader] using
      decodeHeader_ropen (numReaders := numReaders) (OpcodeField.ropen r v)
  | read r n =>
    have hreader : readerInRange numReaders r = true := hwf
    refine decode_of_plain ?_
    simpa [encode, encodeWord, requireZero, requireReader, hreader] using
      decodeHeader_read (numReaders := numReaders) (OpcodeField.read r n)
  | reads r n =>
    have hreader : readerInRange numReaders r = true := hwf
    refine decode_of_plain ?_
    simpa [encode, encodeWord, requireZero, requireReader, hreader] using
      decodeHeader_reads (numReaders := numReaders) (OpcodeField.reads r n)
  | skip r v =>
    have hreader : readerInRange numReaders r = true := hwf
    refine decode_of_plain ?_
    simpa [encode, encodeWord, requireZero, requireReader, hreader] using
      decodeHeader_skip (numReaders := numReaders) (OpcodeField.skip r v)
  | crc32 p =>
    refine decode_of_payload ?_ hwf
    simpa [encode, encodeWord, Instr.payload, requireZero, -BitVec.toNat_ofNat] using
      decodeHeader_crc32 (OpcodeField.crc32 p)
  | crcchk x p =>
    refine decode_of_payload ?_ hwf
    simpa [encode, encodeWord, Instr.payload, requireZero, -BitVec.toNat_ofNat] using
      decodeHeader_crcchk (OpcodeField.crcchk x p)

/-- Settles O2: whatever header the word has, completing it gives a command whose word it is. -/
theorem encodeOfDecodeIsTheWord : Obligations.EncodeOfDecodeIsTheWord := by
  intro numReaders w payload i hdecode
  obtain ⟨h, hok, hlen, rfl⟩ := decode_eq_ok_iff.1 hdecode
  exact decodeHeader_encodes hok payload hlen

end Sys2Proof
end

section
/-! SUPPORT. The fields of a response word and the words written out in the spec's tables; then the statements about
them (spec 30_encoding.md R53, R58). -/

namespace Sys2Proof.Machine

section
open BitVec (extractLsb'_append_eq_of_le extractLsb'_append_eq_right extractLsb'_append_eq_left)

theorem responseWord_fields (kind : BitVec 4) (code : BitVec 8) (value : Word64) :
    (responseWord kind code value).extractLsb' 76 4 = kind ∧ (responseWord kind code value).extractLsb' 72 4 = 0 ∧
    (responseWord kind code value).extractLsb' 64 8 = code ∧
    (responseWord kind code value).extractLsb' 0 64 = value := by
  unfold responseWord
  refine ⟨?_, ?_, ?_, ?_⟩
  · iterate 2 rw [extractLsb'_append_eq_of_le (by decide)]
    rw [extractLsb'_append_eq_left]
  · iterate 2 rw [extractLsb'_append_eq_of_le (by decide)]
    rw [extractLsb'_append_eq_right]; rfl
  · rw [extractLsb'_append_eq_of_le (by decide), extractLsb'_append_eq_right]
  · rw [extractLsb'_append_eq_right]

end

theorem responseWord_inj {kind kind' : BitVec 4} {code code' : BitVec 8} {value value' : Word64}
    (h : responseWord kind code value = responseWord kind' code' value') :
    kind = kind' ∧ code = code' ∧ value = value' := by
  obtain ⟨hkind, -, hcode, hvalue⟩ := responseWord_fields kind code value
  obtain ⟨hkind', -, hcode', hvalue'⟩ := responseWord_fields kind' code' value'
  rw [← h] at hkind' hcode' hvalue'
  exact ⟨hkind.symm.trans hkind', hcode.symm.trans hcode', hvalue.symm.trans hvalue'⟩

/-- `CODE` holds every fault code whole. -/
theorem FaultCode.ofNat_code_toNat (c : FaultCode) : (BitVec.ofNat 8 c.code).toNat = c.code :=
  Nat.mod_eq_of_lt (c.code_lt.trans (by decide))

/-! ## The statements -/

/-- Settles O4: thirteen closed words, each decoded. -/
theorem sampleWordsDecode : Obligations.SampleWordsDecode := by
  unfold Obligations.SampleWordsDecode
  decide

/-- Settles O5: every response word is `responseWord` of its kind, code and value. -/
theorem responseWordFields : Obligations.ResponseWordFields := by
  intro r
  refine ⟨?_, ?_, ?_, ?_⟩
  · cases r <;> simp [Response.word, responseWord_fields]
  · rintro v p rfl
    simp [Response.word, Response.payload, responseWord_fields]
  · rintro v rfl
    simp [Response.word, Response.payload, responseWord_fields]
  · rintro c rfl
    simp [Response.word, Response.payload, responseWord_fields, c.ofNat_code_toNat, -BitVec.toNat_ofNat]

/-- Settles O6: the kind tells success, warning and fault apart, and the other fields hold their operands. -/
theorem responseWordsTellResponsesApart : Obligations.ResponseWordsTellResponsesApart := by
  intro r q hword hpayload
  cases r with
  | ok v p =>
    cases q with
    | ok v' p' =>
      obtain ⟨-, -, rfl⟩ := responseWord_inj hword
      exact congrArg (Response.ok v) hpayload
    | warn v' => exact absurd (responseWord_inj hword).1 (by decide)
    | fault c' => exact absurd (responseWord_inj hword).1 (by decide)
  | warn v =>
    cases q with
    | ok v' p' => exact absurd (responseWord_inj hword).1 (by decide)
    | warn v' =>
      obtain ⟨-, -, rfl⟩ := responseWord_inj hword
      rfl
    | fault c' => exact absurd (responseWord_inj hword).1 (by decide)
  | fault c =>
    cases q with
    | ok v' p' => exact absurd (responseWord_inj hword).1 (by decide)
    | warn v' => exact absurd (responseWord_inj hword).1 (by decide)
    | fault c' =>
      obtain ⟨-, hcode, -⟩ := responseWord_inj hword
      have hcode := congrArg BitVec.toNat hcode
      rw [c.ofNat_code_toNat, c'.ofNat_code_toNat] at hcode
      exact congrArg Response.fault (FaultCode.code_injective hcode)

end Sys2Proof.Machine
end

section
/-! SUPPORT. The meaning of every command as one update of its unit and one response, decided by what the command sees
of the state; then the statements about responses, frames and independent commands (spec 20_memory.md R42, 30_encoding.md,
60_exceptions.md). -/

namespace Sys2Proof.Machine
open Sys2Proof.Spec

/-! ## Updates of one unit -/

/-- What a command does to the block's units: nothing, or a new value of the one that it addresses. -/
inductive UnitUpdate where
  | keep
  | writer (w : Writer)
  | load (p : List Byte)
  | reader (r : BitVec 4) (f : Reader → Reader)
  | crc (c : CrcStatus)

def UnitUpdate.apply (s : State) : UnitUpdate → State
  | .keep => s
  | .writer w => s.setWriter w
  | .load p => s.loadBuffer p
  | .reader r f => s.modifyReader r.toNat f
  | .crc c => s.setCrc c

/-- A response leaves the block, and a fault among the responses is logged. -/
def State.deliver (s : State) (r : Response) : State :=
  { s with faultLog := s.faultLog ||| PortOutput.logBits (.response r), out := s.out ++ [.response r] }

theorem State.respond_ok (s : State) (v : Word64) (p : List Byte) : s.respond (.ok v p) = s.deliver (.ok v p) := by
  simp [State.deliver, PortOutput.logBits, State.respond, State.emit]

theorem State.respond_warn (s : State) (v : Word64) : s.respond (.warn v) = s.deliver (.warn v) := by
  simp [State.deliver, PortOutput.logBits, State.respond, State.emit]

/-! ## What every command performs -/

/-- The commands that append the low `n` bits of `v` (40_writer.md R72, R75). -/
inductive Appends : Instr → Nat → Nat → Prop
  | write (n : BitVec 8) (v : Word64) : Appends (.write n v) n.toNat v.toNat
  | writes (n : BitVec 8) (v : Word64) : Appends (.writes n v) n.toNat (u64 v.toInt).toNat

/-- The commands that fetch `n` bits for reader `r` and answer `extend` of them (41_reader.md R94, R97). -/
inductive Fetches : Instr → BitVec 4 → Nat → (Nat → Word64) → Prop
  | read (r : BitVec 4) (n : BitVec 8) : Fetches (.read r n) r n.toNat zext64
  | reads (r : BitVec 4) (n : BitVec 8) : Fetches (.reads r n) r n.toNat fun v => u64 (sext n.toNat v)

section
variable {i : Instr} {n v : Nat} {r : BitVec 4} {extend : Nat → Word64}

theorem Appends.exec_eq (h : Appends i n v) (s : State) : exec i s = appendBits n v s := by
  cases h <;> rfl

theorem Appends.unitOf_eq (h : Appends i n v) : unitOf i = .writer := by
  cases h <;> rfl

theorem Fetches.exec_eq (h : Fetches i r n extend) (s : State) : exec i s = fetchBits r n extend s := by
  cases h <;> rfl

theorem Fetches.unitOf_eq (h : Fetches i r n extend) : unitOf i = .reader r := by
  cases h <;> rfl

end

/-- In state `s` command `i` performs an update of its unit and gives a response: each command by the outcome of its
checks. -/
inductive Performs (s : State) : Instr → UnitUpdate → Response → Prop
  | opened : Performs s .wopen (.writer .create) (.ok 0 [])
  | appended {i n v} (hi : Appends i n v) (hcheck : writeCheck s.cfg s.writer n = none) :
      Performs s i (.writer (s.writer.memWrite v n)) (.ok 0 [])
  | appendFault {i n v c} (hi : Appends i n v) (hcheck : writeCheck s.cfg s.writer n = some c) :
      Performs s i (.writer (s.writer.enterFault c)) (.fault c)
  | emitted (hcheck : pademitCheck s.writer = none) :
      Performs s .pademit (.writer { s.writer.pad with state := .done }) (.ok s.writer.total s.writer.pad.bytes)
  | emitFault {c} (hcheck : pademitCheck s.writer = some c) :
      Performs s .pademit (.writer (s.writer.enterFault c)) (.fault c)
  | loaded {p} (hcheck : rloadCheck s.cfg p = none) : Performs s (.rload p) (.load p) (.ok 0 [])
  | loadFault {p c} (hcheck : rloadCheck s.cfg p = some c) : Performs s (.rload p) .keep (.fault c)
  | missing {i r} (hunit : unitOf i = .reader r) (hmissing : s.readers[r.toNat]? = none) :
      Performs s i .keep (.fault .illegalCommand)
  | constructed {r v rd} (hrd : s.readers[r.toNat]? = some rd) (hcheck : ropenCheck s.rbuf v.toNat = none) :
      Performs s (.ropen r v) (.reader r fun _ => .create v) (.ok 0 [])
  | ropenFault {r v rd c} (hrd : s.readers[r.toNat]? = some rd) (hcheck : ropenCheck s.rbuf v.toNat = some c) :
      Performs s (.ropen r v) (.reader r (·.enterFault c)) (.fault c)
  | fetched {i r n extend rd v} (hi : Fetches i r n extend) (hrd : s.readers[r.toNat]? = some rd)
      (hcheck : readCheck rd n = none) (hread : memRead s.rbuf.bytes rd.pos.toNat n = some v) :
      Performs s i (.reader r (·.advance n)) (.ok (extend v) [])
  | fetchFault {i r n extend rd c} (hi : Fetches i r n extend) (hrd : s.readers[r.toNat]? = some rd)
      (hcheck : readCheck rd n = some c) : Performs s i (.reader r (·.enterFault c)) (.fault c)
  | skipped {r v rd} (hrd : s.readers[r.toNat]? = some rd) (hcheck : skipCheck rd v.toNat = none) :
      Performs s (.skip r v) (.reader r (·.advance v.toNat)) (.ok 0 [])
  | skipFault {r v rd c} (hrd : s.readers[r.toNat]? = some rd) (hcheck : skipCheck rd v.toNat = some c) :
      Performs s (.skip r v) (.reader r (·.enterFault c)) (.fault c)
  | computed {p} :
      Performs s (.crc32 p) (.crc (s.crc.computed (crcOf p))) (.ok (zext64 (crcOf p).toNat) [])
  | matched {x p} (h : crcOf p = x) :
      Performs s (.crcchk x p) (.crc (.compared (crcOf p) x)) (.ok (zext64 (crcOf p).toNat) [])
  | mismatched {x p} (h : crcOf p ≠ x) :
      Performs s (.crcchk x p) (.crc (.compared (crcOf p) x)) (.warn (zext64 (crcOf p).toNat))

section
variable {s t : State} {i : Instr} {r : BitVec 4} {n v : Nat} {extend : Nat → Word64}

/-- `i` performs some update with some response, and `t` is what they leave. -/
def PerformsTo (s : State) (i : Instr) (t : State) : Prop :=
  ∃ u a, Performs s i u a ∧ t = (u.apply s).deliver a

theorem PerformsTo.respond_ok {u : UnitUpdate} {x : Word64} {p : List Byte} (h : Performs s i u (.ok x p)) :
    PerformsTo s i ((u.apply s).respond (.ok x p)) :=
  ⟨u, _, h, State.respond_ok ..⟩

theorem appendBits_performs (hi : Appends i n v) (h : appendBits n v s = .next t) : PerformsTo s i t := by
  rcases appendBits_cases n v s with ⟨c, hcheck, e⟩ | ⟨hcheck, e⟩ <;> cases e.symm.trans h
  · exact ⟨_, _, .appendFault hi hcheck, rfl⟩
  · exact .respond_ok (.appended hi hcheck)

theorem execPademit_performs (h : execPademit s = .next t) : PerformsTo s .pademit t := by
  rcases execPademit_cases s with ⟨c, hcheck, e⟩ | ⟨hcheck, e⟩ <;> cases e.symm.trans h
  · exact ⟨_, _, .emitFault hcheck, rfl⟩
  · exact .respond_ok (.emitted hcheck)

theorem execRload_performs {p : List Byte} (h : execRload p s = .next t) : PerformsTo s (.rload p) t := by
  rcases execRload_cases p s with ⟨c, hcheck, e⟩ | ⟨hcheck, e⟩ <;> cases e.symm.trans h
  · exact ⟨_, _, .loadFault hcheck, rfl⟩
  · exact .respond_ok (.loaded hcheck)

theorem execRopen_performs {x : Word64} (h : execRopen r x s = .next t) : PerformsTo s (.ropen r x) t := by
  rcases execRopen_cases r x s with ⟨hmissing, e⟩ | ⟨rd, hrd, ⟨c, hcheck, e⟩ | ⟨hcheck, e⟩⟩ <;>
    cases e.symm.trans h
  · exact ⟨_, _, .missing rfl hmissing, rfl⟩
  · exact ⟨_, _, .ropenFault hrd hcheck, rfl⟩
  · exact .respond_ok (.constructed hrd hcheck)

theorem fetchBits_performs (hi : Fetches i r n extend) (h : fetchBits r n extend s = .next t) :
    PerformsTo s i t := by
  rcases fetchBits_cases r n extend s with
      ⟨hmissing, e⟩ | ⟨rd, hrd, ⟨c, hcheck, e⟩ | ⟨hcheck, ⟨v, hread, e⟩ | ⟨-, e⟩⟩⟩ <;> cases e.symm.trans h
  · exact ⟨_, _, .missing hi.unitOf_eq hmissing, rfl⟩
  · exact ⟨_, _, .fetchFault hi hrd hcheck, rfl⟩
  · exact .respond_ok (.fetched hi hrd hcheck hread)

theorem execSkip_performs {x : Word64} (h : execSkip r x s = .next t) : PerformsTo s (.skip r x) t := by
  rcases execSkip_cases r x s with ⟨hmissing, e⟩ | ⟨rd, hrd, ⟨c, hcheck, e⟩ | ⟨hcheck, e⟩⟩ <;>
    cases e.symm.trans h
  · exact ⟨_, _, .missing rfl hmissing, rfl⟩
  · exact ⟨_, _, .skipFault hrd hcheck, rfl⟩
  · exact .respond_ok (.skipped hrd hcheck)

theorem execCrcchk_performs {x : CrcWord} {p : List Byte} (h : execCrcchk x p s = .next t) :
    PerformsTo s (.crcchk x p) t := by
  cases h
  by_cases hx : crcOf p = x
  · rw [if_pos hx]
    exact .respond_ok (.matched hx)
  · rw [if_neg hx]
    exact ⟨_, _, .mismatched hx, State.respond_warn ..⟩

theorem exec_performs (h : exec i s = .next t) : PerformsTo s i t := by
  cases i with
  | wopen => cases h; exact .respond_ok .opened
  | write n v => exact appendBits_performs (.write n v) h
  | writes n v => exact appendBits_performs (.writes n v) h
  | pademit => exact execPademit_performs h
  | rload p => exact execRload_performs h
  | ropen r v => exact execRopen_performs h
  | read r n => exact fetchBits_performs (.read r n) h
  | reads r n => exact fetchBits_performs (.reads r n) h
  | skip r v => exact execSkip_performs h
  | crc32 p => cases h; exact .respond_ok .computed
  | crcchk x p => exact execCrcchk_performs h

/-! ## What a command performs is what it does -/

theorem onReader_of_missing (h : s.readers[r.toNat]? = none) (k : Reader → Host.Outcome State Fault Refusal) :
    onReader r s k = .next (bareFault s .illegalCommand) := by
  rw [onReader, State.reader?, h, ← takeFault_noUnit]

theorem exec_of_missing (hunit : unitOf i = .reader r) (h : s.readers[r.toNat]? = none) :
    exec i s = .next (bareFault s .illegalCommand) := by
  cases i with
  | ropen | read | reads | skip => cases hunit; exact onReader_of_missing h _
  | _ => cases hunit

theorem Performs.exec_eq {u : UnitUpdate} {a : Response} (h : Performs s i u a) :
    exec i s = .next ((u.apply s).deliver a) := by
  cases h with
  | opened => rw [← State.respond_ok]; rfl
  | appended hi hcheck => rw [← State.respond_ok, hi.exec_eq, appendBits, hcheck]; rfl
  | appendFault hi hcheck => rw [hi.exec_eq, appendBits, hcheck]; rfl
  | emitted hcheck => rw [← State.respond_ok, exec, execPademit, hcheck]; rfl
  | emitFault hcheck => rw [exec, execPademit, hcheck]; rfl
  | loaded hcheck => rw [← State.respond_ok, exec, execRload, hcheck]; rfl
  | loadFault hcheck => rw [exec, execRload, hcheck]; rfl
  | missing hunit hmissing => exact exec_of_missing hunit hmissing
  | constructed hrd hcheck => rw [← State.respond_ok, exec, execRopen, onReader_of_present hrd, hcheck]; rfl
  | ropenFault hrd hcheck => exact execRopen_of_fault hrd hcheck
  | fetched hi hrd hcheck hread =>
    rw [← State.respond_ok, hi.exec_eq, fetchBits, onReader_of_present hrd, hcheck, hread]; rfl
  | fetchFault hi hrd hcheck => rw [hi.exec_eq]; exact fetchBits_of_fault hrd hcheck
  | skipped hrd hcheck => rw [← State.respond_ok, exec, execSkip, onReader_of_present hrd, hcheck]; rfl
  | skipFault hrd hcheck => exact execSkip_of_fault hrd hcheck
  | computed => rw [← State.respond_ok]; rfl
  | matched hx => rw [← State.respond_ok, exec, execCrcchk, if_pos hx]; rfl
  | mismatched hx => rw [← State.respond_warn, exec, execCrcchk, if_neg hx]; rfl

end

/-! ## What a command sees and what it changes (20_memory.md R42) -/

/-- Two states look the same to the commands of a unit. -/
def SameView : BlockUnit → State → State → Prop
  | .writer, s, t => s.cfg = t.cfg ∧ s.writer = t.writer
  | .buffer, s, t => s.cfg = t.cfg
  | .reader r, s, t => s.rbuf = t.rbuf ∧ s.readers[r.toNat]? = t.readers[r.toNat]?
  | .crc, s, t => s.crc = t.crc

/-- The update is of the unit `x` alone. -/
def UnitUpdate.Within : UnitUpdate → BlockUnit → Prop
  | .keep, _ => True
  | .writer _, x => x = .writer
  | .load _, x => x = .buffer
  | .reader r _, x => x = .reader r
  | .crc _, x => x = .crc

section
variable {s t : State} {i : Instr} {u v : UnitUpdate} {a b : Response} {x y : BlockUnit}

/-- A command performs the same on two states that look the same to its unit. -/
theorem Performs.of_sameView (h : Performs s i u a) (hview : SameView (unitOf i) s t) : Performs t i u a := by
  cases h with
  | opened => exact .opened
  | appended hi hcheck =>
    rw [hi.unitOf_eq] at hview
    obtain ⟨hcfg, hwriter⟩ := hview
    rw [hcfg, hwriter] at hcheck
    exact hwriter ▸ .appended hi hcheck
  | appendFault hi hcheck =>
    rw [hi.unitOf_eq] at hview
    obtain ⟨hcfg, hwriter⟩ := hview
    rw [hcfg, hwriter] at hcheck
    exact hwriter ▸ .appendFault hi hcheck
  | emitted hcheck =>
    obtain ⟨-, hwriter⟩ := hview
    rw [hwriter] at hcheck ⊢
    exact .emitted hcheck
  | emitFault hcheck =>
    obtain ⟨-, hwriter⟩ := hview
    rw [hwriter] at hcheck ⊢
    exact .emitFault hcheck
  | loaded hcheck => exact .loaded ((show s.cfg = t.cfg from hview) ▸ hcheck)
  | loadFault hcheck => exact .loadFault ((show s.cfg = t.cfg from hview) ▸ hcheck)
  | missing hunit hmissing =>
    rw [hunit] at hview
    obtain ⟨-, hreader⟩ := hview
    exact .missing hunit (hreader ▸ hmissing)
  | constructed hrd hcheck =>
    obtain ⟨hbuf, hreader⟩ := hview
    exact .constructed (hreader ▸ hrd) (hbuf ▸ hcheck)
  | ropenFault hrd hcheck =>
    obtain ⟨hbuf, hreader⟩ := hview
    exact .ropenFault (hreader ▸ hrd) (hbuf ▸ hcheck)
  | fetched hi hrd hcheck hread =>
    rw [hi.unitOf_eq] at hview
    obtain ⟨hbuf, hreader⟩ := hview
    exact .fetched hi (hreader ▸ hrd) hcheck (hbuf ▸ hread)
  | fetchFault hi hrd hcheck =>
    rw [hi.unitOf_eq] at hview
    obtain ⟨-, hreader⟩ := hview
    exact .fetchFault hi (hreader ▸ hrd) hcheck
  | skipped hrd hcheck =>
    obtain ⟨-, hreader⟩ := hview
    exact .skipped (hreader ▸ hrd) hcheck
  | skipFault hrd hcheck =>
    obtain ⟨-, hreader⟩ := hview
    exact .skipFault (hreader ▸ hrd) hcheck
  | computed => exact (show s.crc = t.crc from hview) ▸ .computed
  | matched hx => exact .matched hx
  | mismatched hx => exact .mismatched hx

theorem Performs.within (h : Performs s i u a) : u.Within (unitOf i) := by
  cases h with
  | appended hi => exact hi.unitOf_eq
  | appendFault hi => exact hi.unitOf_eq
  | fetched hi => exact hi.unitOf_eq
  | fetchFault hi => exact hi.unitOf_eq
  | loadFault => trivial
  | missing => trivial
  | _ => rfl

/-! ## The frame of an update -/

theorem apply_cfg (s : State) (u : UnitUpdate) : (u.apply s).cfg = s.cfg := by cases u <;> rfl
theorem apply_pending (s : State) (u : UnitUpdate) : (u.apply s).pending = s.pending := by cases u <;> rfl
theorem apply_out (s : State) (u : UnitUpdate) : (u.apply s).out = s.out := by cases u <;> rfl
theorem apply_readers_length (s : State) (u : UnitUpdate) : (u.apply s).readers.length = s.readers.length := by
  cases u <;> simp [UnitUpdate.apply]

theorem apply_writer_of_ne (hu : u.Within x) (hx : x ≠ .writer) : (u.apply s).writer = s.writer := by
  cases u with
  | writer w => exact absurd hu hx
  | _ => rfl

theorem apply_rbuf_of_ne (hu : u.Within x) (hx : x ≠ .buffer) : (u.apply s).rbuf = s.rbuf := by
  cases u with
  | load p => exact absurd hu hx
  | _ => rfl

theorem apply_crc_of_ne (hu : u.Within x) (hx : x ≠ .crc) : (u.apply s).crc = s.crc := by
  cases u with
  | crc c => exact absurd hu hx
  | _ => rfl

theorem apply_reader_of_ne {q : Nat} (hu : u.Within x) (hx : x ≠ .buffer) (hq : ∀ r, x = .reader r → r.toNat ≠ q) :
    (u.apply s).readers[q]? = s.readers[q]? := by
  cases u with
  | load p => exact absurd hu hx
  | reader r f => simp [UnitUpdate.apply, hq r hu]
  | _ => rfl

/-! ## Independent units -/

theorem independent_symm (h : independent x y) : independent y x := by
  obtain ⟨hne, hbuffer, hreader⟩ := h
  exact ⟨hne.symm, fun r hr => hreader r hr.symm, fun r hr => hbuffer r hr.symm⟩

/-- An update of an independent unit is not seen. -/
theorem sameView_of_independent (hu : u.Within x) (h : independent x y) (r : Response) :
    SameView y s ((u.apply s).deliver r) := by
  obtain ⟨hne, hbuffer, -⟩ := h
  cases y with
  | writer => exact ⟨(apply_cfg s u).symm, (apply_writer_of_ne hu hne).symm⟩
  | buffer => exact (apply_cfg s u).symm
  | reader q =>
    have hx : x ≠ .buffer := fun hx => hbuffer q ⟨hx, rfl⟩
    refine ⟨(apply_rbuf_of_ne hu hx).symm, (apply_reader_of_ne hu hx fun r hr hq => hne ?_).symm⟩
    rw [hr, BitVec.eq_of_toNat_eq hq]
  | crc => exact (apply_crc_of_ne hu hne).symm

theorem SameView.symm : ∀ {x : BlockUnit}, SameView x s t → SameView x t s
  | .writer, ⟨hcfg, hwriter⟩ => ⟨hcfg.symm, hwriter.symm⟩
  | .buffer, hcfg => Eq.symm hcfg
  | .reader _, ⟨hbuf, hreader⟩ => ⟨hbuf.symm, hreader.symm⟩
  | .crc, hcrc => Eq.symm hcrc

theorem modify_comm_of_ne {l : List Reader} {p q : Nat} (h : p ≠ q) (f g : Reader → Reader) :
    (l.modify p f).modify q g = (l.modify q g).modify p f := by
  refine List.ext_getElem? fun k => ?_
  by_cases hp : p = k
  · subst hp; simp [h.symm]
  · simp [hp, List.getElem?_modify]

theorem apply_comm (hu : u.Within x) (hv : v.Within y) (h : independent x y) :
    u.apply (v.apply s) = v.apply (u.apply s) := by
  obtain ⟨hne, hbuffer, hreader⟩ := h
  cases u with
  | keep => rfl
  | writer w =>
    cases v with
    | writer w' => exact absurd (hu.trans hv.symm) hne
    | _ => rfl
  | load p =>
    cases v with
    | load p' => exact absurd (hu.trans hv.symm) hne
    | reader r f => exact absurd ⟨hu, hv⟩ (hbuffer r)
    | _ => rfl
  | reader r f =>
    cases v with
    | load p => exact absurd ⟨hu, hv⟩ (hreader r)
    | reader q g =>
      have hrq : q.toNat ≠ r.toNat := fun e => hne (by rw [hu, hv, BitVec.eq_of_toNat_eq e])
      exact congrArg (fun l => { s with readers := l }) (modify_comm_of_ne hrq g f)
    | _ => rfl
  | crc c =>
    cases v with
    | crc c' => exact absurd (hu.trans hv.symm) hne
    | _ => rfl

theorem apply_deliver (s : State) (u : UnitUpdate) (r : Response) :
    u.apply (s.deliver r) = (u.apply s).deliver r := by
  cases u <;> rfl

@[simp] theorem deliver_out (s : State) (u : UnitUpdate) (r : Response) :
    ((u.apply s).deliver r).out = s.out ++ [.response r] :=
  congrArg (· ++ _) (apply_out s u)

/-- Apart from the order of the responses, it makes no difference which of two is delivered first. -/
theorem deliver_comm (s : State) (a b : Response) :
    { (s.deliver b).deliver a with out := ((s.deliver a).deliver b).out } = (s.deliver a).deliver b := by
  simp only [State.deliver, State.mk.injEq, true_and, and_true]
  rw [BitVec.or_assoc, BitVec.or_assoc, BitVec.or_comm (PortOutput.logBits _)]

end

/-! ## The responses (30_encoding.md R58) -/

/-- Only `CRCCHK` warns and only `PADEMIT` answers with bytes. -/
def ResponseOf (i : Instr) (r : Response) : Prop :=
  (∀ v, r = .warn v → ∃ x p, i = .crcchk x p) ∧ ∀ v p, r = .ok v p → p ≠ [] → i = .pademit

theorem responseOf_fault (i : Instr) (c : FaultCode) : ResponseOf i (.fault c) := ⟨nofun, nofun⟩

theorem responseOf_ok_nil (i : Instr) (v : Word64) : ResponseOf i (.ok v []) := by
  refine ⟨nofun, ?_⟩
  rintro _ _ ⟨⟩ h
  exact absurd rfl h

theorem Performs.responseOf {s : State} {i : Instr} {u : UnitUpdate} {r : Response} (h : Performs s i u r) :
    ResponseOf i r := by
  cases h with
  | emitted => exact ⟨nofun, fun _ _ _ _ => rfl⟩
  | mismatched => exact ⟨fun _ _ => ⟨_, _, rfl⟩, nofun⟩
  | appendFault | emitFault | loadFault | missing | ropenFault | fetchFault | skipFault =>
    exact responseOf_fault ..
  | _ => exact responseOf_ok_nil ..

/-! ## The statements -/

/-- Settles O15: a command is one update of its unit and one response, which touch neither the parameters nor what
waits. -/
theorem everyCommandAnswersOnce : Obligations.EveryCommandAnswersOnce := by
  intro i s t h
  obtain ⟨u, r, hperforms, rfl⟩ := exec_performs h
  obtain ⟨hwarn, hbytes⟩ := hperforms.responseOf
  exact ⟨r, deliver_out s u r, hwarn, hbytes, apply_cfg s u, apply_pending s u,
    apply_readers_length s u⟩

/-- Settles O29: the reader that the command asks for is not there. -/
theorem missingReadersAreIllegal : Obligations.MissingReadersAreIllegal := by
  intro s r v n hlen i hi
  have hmissing : s.readers[r.toNat]? = none := List.getElem?_eq_none hlen
  simp only [List.mem_cons, List.not_mem_nil, or_false] at hi
  rcases hi with rfl | rfl | rfl | rfl <;> exact exec_of_missing rfl hmissing

/-- Settles O45: the update of a command is of its own unit. -/
theorem commandsChangeOnlyTheirUnit : Obligations.CommandsChangeOnlyTheirUnit := by
  intro i s t h
  obtain ⟨u, r, hperforms, rfl⟩ := exec_performs h
  have hwithin := hperforms.within
  refine ⟨fun hne => ?_, fun hne => ?_, fun q hne hq => apply_reader_of_ne hwithin hne hq,
    apply_crc_of_ne hwithin⟩
  · have hkept : ((u.apply s).deliver r).writer = s.writer := apply_writer_of_ne hwithin hne
    exact ⟨hkept, fun a => by rw [hkept]⟩
  · have hkept : ((u.apply s).deliver r).rbuf = s.rbuf := apply_rbuf_of_ne hwithin hne
    exact ⟨hkept, fun a => by rw [hkept]⟩

/-- Settles O46: neither command sees the other's update, so each performs the same in both orders, and the updates
commute. -/
theorem independentCommandsCommute : Obligations.IndependentCommandsCommute := by
  intro i j s s₁ s₂ hindep hi hj
  obtain ⟨u, a, hu, rfl⟩ := exec_performs hi
  obtain ⟨v, b, hv, rfl⟩ := exec_performs hj
  have hv' : Performs s j v b := hv.of_sameView (sameView_of_independent hu.within hindep a).symm
  have hu' : Performs ((v.apply s).deliver b) i u a :=
    hu.of_sameView (sameView_of_independent hv'.within (independent_symm hindep) b)
  refine ⟨_, _, .response a, .response b, hv'.exec_eq, hu'.exec_eq, deliver_out .., by simp, deliver_out .., by simp,
    ?_⟩
  rw [apply_deliver, apply_deliver, apply_comm hu.within hv'.within hindep]
  exact deliver_comm _ a b

end Sys2Proof.Machine
end

section
/-! SUPPORT. The invariant of each unit under the operations of its commands, the invariant of the whole state under a
step, and that no check of a legal state lets a read past the buffer through; then the statements about legal states and
about what a step serves (spec 10_state.md R12 to R20, 60_exceptions.md R131, R145). -/

namespace Sys2Proof.Machine
open Sys2Proof.Spec

/-! ## The writer (10_state.md R12 to R15) -/

theorem leftJustified_written (w : Writer) (v n : Nat) : leftJustified (written w v n) := by
  rw [leftJustified, written_cnt_val, written_eq]
  have hle : 2 ^ (8 - (w.cnt.val + n) % 8) ∣ 2 ^ 8 := pow_dvd_pow 2 (Nat.sub_le ..)
  rw [pendingByte, BitVec.toNat_ofNat, Nat.mod_mod_of_dvd _ hle, Nat.mul_mod_left]

/-- `MemWrite` keeps the stream relation of an unfinished stream. -/
theorem streaming_written {w : Writer} {n : Nat} (v : Nat) (h : w.streaming) (hfits : w.total.toNat + n < 2 ^ 64) :
    (written w v n).streaming := by
  rw [Writer.streaming, Writer.len] at h
  rw [Writer.streaming, Writer.len, written_total_toNat w v hfits, written_length, written_cnt_val]
  omega

section
variable {c : Config} {w : Writer}

theorem Writer.reset_inv (c : Config) : Writer.reset.Inv c := by
  refine ⟨rfl, (wbufHolds_iff ..).2 fun _ _ => Nat.zero_le _, fun _ => rfl, nofun, nofun, nofun, ?_⟩
  decide

theorem Writer.create_inv (c : Config) : Writer.create.Inv c := by
  refine ⟨rfl, (wbufHolds_iff ..).2 fun _ _ => Nat.zero_le _, nofun, fun _ => rfl, nofun, nofun, ?_⟩
  decide

/-- Whatever the writer's state, its stream is an unfinished or a finished one. -/
theorem Writer.Inv.streaming_or_finished (h : w.Inv c) : w.streaming ∨ w.finished := by
  obtain ⟨-, -, hclosed, hopened, hdone, hfaulted, -⟩ := h
  cases hstate : w.state with
  | closed => rw [hclosed hstate]; exact .inl rfl
  | opened => exact .inl (hopened hstate)
  | done => exact .inr (hdone hstate)
  | faulted => exact hfaulted hstate

theorem Writer.Inv.enterFault (h : w.Inv c) (f : FaultCode) : (w.enterFault f).Inv c := by
  by_cases hstate : w.state = .faulted
  · rwa [Writer.enterFault_of_faulted hstate]
  · have hstream := h.streaming_or_finished
    obtain ⟨hjust, hholds, -⟩ := h
    rw [Writer.enterFault, if_neg hstate]
    exact ⟨hjust, hholds, nofun, nofun, nofun, fun _ => hstream, ⟨nofun, fun h => absurd rfl h⟩⟩

theorem Writer.Inv.memWrite (h : w.Inv c) {n : Nat} (hcheck : writeCheck c w n = none) (v : Nat) :
    (w.memWrite v n).Inv c := by
  obtain ⟨hopen, -, -, hfits, hholds⟩ := (writeCheck_eq_none_iff ..).1 hcheck
  obtain ⟨hjust, -, -, hstreaming, -, -, hfault⟩ := h
  rw [memWrite_eq_written hjust]
  have hstate : (written w v n).state = .opened := hopen
  refine ⟨leftJustified_written w v n, ?_, ?_, fun _ => streaming_written v (hstreaming hopen) hfits, ?_, ?_, hfault⟩
  · rwa [written_total_toNat w v hfits]
  all_goals simp [hstate]

theorem Writer.Inv.pad (h : w.Inv c) (hopen : w.state = .opened) : Writer.Inv c { w.pad with state := .done } := by
  obtain ⟨hjust, hholds, -, hstreaming, -, -, hfault⟩ := h
  rw [Writer.pad_eq_of_leftJustified hjust]
  refine ⟨rfl, hholds, nofun, nofun, fun _ => ⟨rfl, Writer.pad_length (hstreaming hopen)⟩, nofun, ?_⟩
  simpa [hopen] using hfault

end

/-! ## The readers (10_state.md R17) -/

section
variable {b : ReaderBuffer} {rd : Reader}

theorem Reader.reset_inv (b : ReaderBuffer) : Reader.reset.Inv b :=
  ⟨Nat.zero_le _, Nat.zero_le _, nofun, fun _ => rfl, by decide⟩

theorem Reader.create_inv {limit : Word64} (hcheck : ropenCheck b limit.toNat = none) :
    (Reader.create limit).Inv b := by
  obtain ⟨hloaded, hlimit⟩ := (ropenCheck_eq_none_iff ..).1 hcheck
  exact ⟨Nat.zero_le _, hlimit, fun _ => hloaded, nofun, by simp [Reader.create]⟩

theorem Reader.Inv.enterFault (h : rd.Inv b) (f : FaultCode) : (rd.enterFault f).Inv b := by
  by_cases hstate : rd.state = .faulted
  · rwa [Reader.enterFault_of_faulted hstate]
  · obtain ⟨hpos, hlimit, -⟩ := h
    rw [Reader.enterFault, if_neg hstate]
    exact ⟨hpos, hlimit, nofun, nofun, ⟨nofun, fun h => absurd rfl h⟩⟩

/-- An OPEN reader's cursor moves within the limit. -/
theorem Reader.Inv.advance (h : rd.Inv b) (hopen : rd.state = .opened) {n : Nat}
    (hleft : rd.pos.toNat + n ≤ rd.limit.toNat) : (rd.advance n).Inv b := by
  obtain ⟨-, hlimit, hloaded, -, hfault⟩ := h
  have hn : (BitVec.ofNat 64 n).toNat = n := Nat.mod_eq_of_lt (by omega)
  refine ⟨?_, hlimit, hloaded, fun hclosed => ?_, hfault⟩
  · rwa [Reader.advance_pos, toNat_pos_add (by rwa [hn]), hn]
  · rw [Reader.advance_state, hopen] at hclosed
    cases hclosed

end

/-! ## The CRC unit and `FAULT_LOG` (10_state.md R19, R20) -/

theorem CrcStatus.compared_inv (x y : CrcWord) : (CrcStatus.compared x y).Inv := ⟨rfl, fun _ => rfl⟩

theorem CrcStatus.computed_inv (c : CrcStatus) (x : CrcWord) : (c.computed x).Inv := ⟨rfl, fun _ => rfl⟩

theorem faultLogLegal_or {l m : Word64} (hl : faultLogLegal l) (hm : faultLogLegal m) : faultLogLegal (l ||| m) := by
  have hor := congrArg₂ (· ||| ·) hl hm
  rw [faultLogLegal, BitVec.and_comm, BitVec.and_or_distrib_left, BitVec.and_comm, BitVec.and_comm _ m]
  exact hor

theorem faultLogLegal_logBits (r : Response) : faultLogLegal (PortOutput.logBits (.response r)) := by
  match r with
  | .ok _ _ => exact (by decide : faultLogLegal 0)
  | .warn _ => exact (by decide : faultLogLegal 0)
  | .fault c => cases c <;> decide

/-! ## What a command performs in a legal state -/

/-- The update leaves its unit legal beside the rest of `s`. -/
def UnitUpdate.Legal (s : State) : UnitUpdate → Prop
  | .keep => True
  | .writer w => w.Inv s.cfg
  | .load p => p.length ≤ s.cfg.rbufMaxBytes
  | .reader r f => ∀ rd, s.readers[r.toNat]? = some rd → (f rd).Inv s.rbuf
  | .crc c => c.Inv

section
variable {s t : State} {i : Instr} {u : UnitUpdate} {r : Response}

theorem State.Inv.reader (h : s.Inv) {q : Nat} {rd : Reader} (hrd : s.readers[q]? = some rd) : rd.Inv s.rbuf := by
  obtain ⟨-, -, -, -, -, hreaders, -⟩ := h
  exact hreaders rd (List.mem_of_getElem? hrd)

theorem Performs.legal (h : Performs s i u r) (hs : s.Inv) : u.Legal s := by
  have ⟨_, _, _, hwriter, _⟩ := hs
  cases h with
  | opened => exact Writer.create_inv _
  | appended _ hcheck => exact hwriter.memWrite hcheck _
  | appendFault => exact hwriter.enterFault _
  | emitted hcheck => exact hwriter.pad ((pademitCheck_eq_none_iff _).1 hcheck)
  | emitFault => exact hwriter.enterFault _
  | loaded hcheck => exact (rloadCheck_eq_none_iff ..).1 hcheck
  | loadFault => trivial
  | missing => trivial
  | constructed _ hcheck => exact fun _ _ => Reader.create_inv hcheck
  | ropenFault => exact fun rd hrd => (hs.reader hrd).enterFault _
  | fetched _ hrd hcheck =>
    obtain ⟨hopen, -, -, hleft⟩ := (readCheck_eq_none_iff ..).1 hcheck
    intro rd hrd'
    cases hrd.symm.trans hrd'
    exact (hs.reader hrd).advance hopen hleft
  | fetchFault => exact fun rd hrd => (hs.reader hrd).enterFault _
  | skipped hrd hcheck =>
    obtain ⟨hopen, hleft⟩ := (skipCheck_eq_none_iff ..).1 hcheck
    intro rd hrd'
    cases hrd.symm.trans hrd'
    exact (hs.reader hrd).advance hopen hleft
  | skipFault => exact fun rd hrd => (hs.reader hrd).enterFault _
  | computed => exact CrcStatus.computed_inv ..
  | matched => exact CrcStatus.compared_inv ..
  | mismatched => exact CrcStatus.compared_inv ..

theorem UnitUpdate.Legal.apply_inv (hu : u.Legal s) (hs : s.Inv) : (u.apply s).Inv := by
  have ⟨hcfg, hmin, hmax, hwriter, hbuf, hreaders, hcrc, hlog⟩ := hs
  cases u with
  | keep => exact hs
  | writer w => exact ⟨hcfg, hmin, hmax, hu, hbuf, hreaders, hcrc, hlog⟩
  | load p =>
    refine ⟨hcfg, ?_, ?_, hwriter, ⟨hu, nofun⟩, fun rd hrd => ?_, hcrc, hlog⟩
    · rwa [State.numReaders, apply_readers_length]
    · rwa [State.numReaders, apply_readers_length]
    · rw [List.eq_of_mem_replicate hrd]
      exact Reader.reset_inv _
  | reader r f =>
    refine ⟨hcfg, ?_, ?_, hwriter, hbuf, fun rd hrd => ?_, hcrc, hlog⟩
    · rwa [State.numReaders, apply_readers_length]
    · rwa [State.numReaders, apply_readers_length]
    · obtain ⟨q, hq⟩ := List.mem_iff_getElem?.1 hrd
      by_cases hrq : r.toNat = q
      · subst hrq
        obtain ⟨rd', hrd', rfl⟩ : ∃ rd', s.readers[r.toNat]? = some rd' ∧ f rd' = rd := by
          simpa [UnitUpdate.apply] using hq
        exact hu rd' hrd'
      · exact hs.reader (q := q) (by simpa [UnitUpdate.apply, hrq] using hq)
  | crc c => exact ⟨hcfg, hmin, hmax, hwriter, hbuf, hreaders, hu, hlog⟩

theorem State.Inv.deliver (hs : s.Inv) (r : Response) : (s.deliver r).Inv := by
  obtain ⟨hcfg, hmin, hmax, hwriter, hbuf, hreaders, hcrc, hlog⟩ := hs
  exact ⟨hcfg, hmin, hmax, hwriter, hbuf, hreaders, hcrc, faultLogLegal_or hlog (faultLogLegal_logBits r)⟩

theorem State.Inv.exec (hs : s.Inv) (h : exec i s = .next t) : t.Inv := by
  obtain ⟨u, r, hperforms, rfl⟩ := exec_performs h
  exact ((hperforms.legal hs).apply_inv hs).deliver r

theorem State.Inv.runCommand (hs : s.Inv) {c : Command} (h : runCommand c s = .next t) : t.Inv := by
  cases hdecode : decode s.numReaders c.word c.payload with
  | ok i => exact hs.exec ((runCommand_of_ok hdecode).symm.trans h)
  | error e =>
    cases (runCommand_of_error hdecode).symm.trans h
    exact hs.deliver (.fault .illegalCommand)

theorem State.Inv.resetBlock (hs : s.Inv) : s.resetBlock.Inv := by
  obtain ⟨hcfg, hmin, hmax, -⟩ := hs
  refine ⟨hcfg, ?_, ?_, Writer.reset_inv _, ⟨Nat.zero_le _, fun _ => rfl⟩, fun rd hrd => ?_, ⟨rfl, nofun⟩,
    BitVec.zero_and⟩
  · rwa [State.numReaders, State.resetBlock_readers, List.length_replicate]
  · rwa [State.numReaders, State.resetBlock_readers, List.length_replicate]
  · rw [List.eq_of_mem_replicate hrd]
    exact Reader.reset_inv _

/-! ## No legal state stops -/

/-- The limit of a legal reader lies in the buffer, so every bit before it exists. -/
theorem fetchBits_completes (hs : s.Inv) (r : BitVec 4) (n : Nat) (extend : Nat → Word64) :
    Completes (fetchBits r n extend s) := by
  rcases fetchBits_cases r n extend s with
      ⟨-, e⟩ | ⟨rd, hrd, ⟨c, -, e⟩ | ⟨hcheck, ⟨v, -, e⟩ | ⟨hread, -⟩⟩⟩
  · exact ⟨_, e⟩
  · exact ⟨_, e⟩
  · exact ⟨_, e⟩
  · obtain ⟨-, -, -, hleft⟩ := (readCheck_eq_none_iff ..).1 hcheck
    obtain ⟨-, hlimit, -⟩ := hs.reader hrd
    rw [memRead_eq_fieldAt (hleft.trans hlimit)] at hread
    cases hread

/-- Every command goes on in every state, unless it fetches bits. -/
theorem exec_completes_or_fetches (i : Instr) (s : State) :
    Completes (exec i s) ∨ ∃ r n extend, Fetches i r n extend := by
  cases i with
  | wopen => exact .inl ⟨_, rfl⟩
  | write n v => rcases appendBits_cases n.toNat v.toNat s with ⟨_, -, e⟩ | ⟨-, e⟩ <;> exact .inl ⟨_, e⟩
  | writes n v =>
    rcases appendBits_cases n.toNat (u64 v.toInt).toNat s with ⟨_, -, e⟩ | ⟨-, e⟩ <;> exact .inl ⟨_, e⟩
  | pademit => rcases execPademit_cases s with ⟨_, -, e⟩ | ⟨-, e⟩ <;> exact .inl ⟨_, e⟩
  | rload p => rcases execRload_cases p s with ⟨_, -, e⟩ | ⟨-, e⟩ <;> exact .inl ⟨_, e⟩
  | ropen r v =>
    rcases execRopen_cases r v s with ⟨-, e⟩ | ⟨_, -, ⟨_, -, e⟩ | ⟨-, e⟩⟩ <;> exact .inl ⟨_, e⟩
  | read r n => exact .inr ⟨_, _, _, .read r n⟩
  | reads r n => exact .inr ⟨_, _, _, .reads r n⟩
  | skip r v => rcases execSkip_cases r v s with ⟨-, e⟩ | ⟨_, -, ⟨_, -, e⟩ | ⟨-, e⟩⟩ <;> exact .inl ⟨_, e⟩
  | crc32 p => exact .inl ⟨_, rfl⟩
  | crcchk x p => exact .inl ⟨_, rfl⟩

theorem exec_completes (hs : s.Inv) (i : Instr) : Completes (exec i s) := by
  rcases exec_completes_or_fetches i s with h | ⟨r, n, extend, hi⟩
  · exact h
  · rw [hi.exec_eq]
    exact fetchBits_completes hs r n extend

theorem exec_ne_refused (i : Instr) (s : State) (refusal : Refusal) : exec i s ≠ .refused refusal := by
  rcases exec_completes_or_fetches i s with ⟨t, h⟩ | ⟨r, n, extend, hi⟩
  · rw [h]; exact nofun
  · rw [hi.exec_eq]
    rcases fetchBits_cases r n extend s with ⟨-, e⟩ | ⟨_, -, ⟨_, -, e⟩ | ⟨-, ⟨_, -, e⟩ | ⟨-, e⟩⟩⟩ <;>
      rw [e] <;> exact nofun

theorem step_completes (hs : s.Inv) : Completes (step s) := by
  rcases step_cases s with ⟨hidle, -⟩ | ⟨e, rest, hpending, -⟩
  · exact ⟨_, step_of_idle hidle⟩
  · rw [step_of_pending hpending]
    cases e with
    | command c =>
      cases hdecode : decode s.numReaders c.word c.payload with
      | ok i =>
        rw [serveEvent, runCommand_of_ok (s := { s with pending := rest }) hdecode]
        exact exec_completes (s := { s with pending := rest }) hs i
      | error e => exact ⟨_, runCommand_of_error (s := { s with pending := rest }) hdecode⟩
    | regRead a => exact ⟨_, rfl⟩
    | reset => exact ⟨_, rfl⟩

end

/-! ## The statements -/

/-- Settles O13: the event is served on the state without it, and a command's update keeps its unit legal. -/
theorem stepKeepsTheInvariant : Obligations.StepKeepsTheInvariant := by
  intro s t hs h
  rcases step_cases s with ⟨hidle, -⟩ | ⟨e, rest, hpending, -⟩
  · cases (step_of_idle hidle).symm.trans h
    exact hs
  · have hserve : serveEvent e { s with pending := rest } = .next t := (step_of_pending hpending).symm.trans h
    have hrest : State.Inv { s with pending := rest } := hs
    cases e with
    | command c => exact hrest.runCommand hserve
    | regRead a => cases hserve; exact hs
    | reset => cases hserve; exact hrest.resetBlock

/-- Settles O14: only a fetch past the buffer's end stops, and a legal reader's checks let none through. -/
theorem legalStatesNeverStop : Obligations.LegalStatesNeverStop :=
  ⟨fun _ hs => ⟨step_completes hs, exec_completes hs⟩, exec_ne_refused⟩

/-- Settles O8: the reset state is closed data, on which the invariant is decided. -/
theorem resetMeetsTheInvariant : Obligations.ResetMeetsTheInvariant := by
  unfold Obligations.ResetMeetsTheInvariant
  decide

/-- Settles O10: the served command is decoded with the block's own number of readers. -/
theorem stepRunsTheDecodedCommand : Obligations.StepRunsTheDecodedCommand := by
  intro s c rest hpending
  rw [step_of_pending hpending]
  exact ⟨fun _ => runCommand_of_ok (s := { s with pending := rest }),
    fun _ => runCommand_of_error (s := { s with pending := rest })⟩

/-- Settles O12: nothing waits, so nothing is fetched. -/
theorem idleBlockKeepsAllState : Obligations.IdleBlockKeepsAllState := fun _ => step_of_idle

/-- Settles O47: `resetBlock` rewrites the elements of the block alone. -/
theorem resetKeepsTheHostsSide : Obligations.ResetKeepsTheHostsSide :=
  fun _ _ hpending => ⟨_, step_of_reset hpending, rfl, rfl, rfl⟩

end Sys2Proof.Machine
end

section
/-! SUPPORT. The bits that a writer holds, as a list that `AppendBit` extends; the fields of a stream as bit lists; then
the statements about what the writes store (spec 20_memory.md R32 to R36, 40_writer.md R75, 43_laws.md). -/

namespace Sys2Proof.Machine
open Sys2Proof.Spec

/-! ## The bits of a field -/

@[simp] theorem length_bitsOf (v n : Nat) : (bitsOf v n).length = n := by
  simp [bitsOf]

theorem getElem?_bitsOf (v : Nat) {n j : Nat} (h : j < n) : (bitsOf v n)[j]? = some (v.testBit (n - 1 - j)) := by
  simp [bitsOf, h]

@[simp] theorem bitsOf_zero (v : Nat) : bitsOf v 0 = [] := rfl

theorem bitsOf_succ (v n : Nat) : bitsOf v (n + 1) = v.testBit n :: bitsOf v n := by
  rw [bitsOf, List.range_succ_eq_map, List.map_cons, List.map_map]
  congr 1
  refine List.map_congr_left fun i _ => ?_
  rw [Function.comp_apply]
  congr 1; omega

/-- Only the low `n` bits of the value are in the field. -/
theorem bitsOf_congr {a b n : Nat} (h : a % 2 ^ n = b % 2 ^ n) : bitsOf a n = bitsOf b n := by
  refine List.map_congr_left fun i hi => ?_
  have hlt : n - 1 - i < n := by rw [List.mem_range] at hi; omega
  have hbit := congrArg (Nat.testBit · (n - 1 - i)) h
  simpa [Nat.testBit_mod_two_pow, hlt] using hbit

/-- The bits of a concatenation are those of its parts. -/
theorem bitsOf_concat (a m b n : Nat) : bitsOf (a % 2 ^ m * 2 ^ n + b % 2 ^ n) (m + n) = bitsOf a m ++ bitsOf b n := by
  have hbit : ∀ j, (a % 2 ^ m * 2 ^ n + b % 2 ^ n).testBit j =
      if j < n then (b % 2 ^ n).testBit j else (a % 2 ^ m).testBit (j - n) := by
    rw [Nat.mul_comm]
    exact Nat.testBit_two_pow_mul_add _ (Nat.mod_lt _ (Nat.two_pow_pos n))
  refine List.ext_getElem? fun j => ?_
  by_cases hm : j < m
  · rw [List.getElem?_append_left (by simpa using hm), getElem?_bitsOf _ (by omega), getElem?_bitsOf _ hm, hbit,
      if_neg (by omega), Nat.testBit_mod_two_pow, decide_eq_true (by omega), Bool.true_and]
    congr 2; omega
  · rw [List.getElem?_append_right (by simpa using hm), length_bitsOf]
    by_cases hn : j < m + n
    · rw [getElem?_bitsOf _ hn, getElem?_bitsOf _ (by omega), hbit, if_pos (by omega), Nat.testBit_mod_two_pow,
        decide_eq_true (by omega), Bool.true_and]
      congr 2; omega
    · rw [List.getElem?_eq_none (by rw [length_bitsOf]; omega),
        List.getElem?_eq_none (by rw [length_bitsOf]; omega)]

/-- `MemWrite` appends the bits of the field one after another. -/
theorem Writer.memWrite_eq_foldl (w : Writer) (v n : Nat) : w.memWrite v n = (bitsOf v n).foldl Writer.appendBit w := by
  induction n generalizing w with
  | zero => rfl
  | succ n ih => rw [Writer.memWrite, ih, bitsOf_succ, List.foldl_cons]

theorem Writer.memWrite_congr (w : Writer) {a b n : Nat} (h : a % 2 ^ n = b % 2 ^ n) :
    w.memWrite a n = w.memWrite b n := by
  rw [memWrite_eq_foldl, memWrite_eq_foldl, bitsOf_congr h]

theorem Writer.memWrite_state_fault (w : Writer) (v n : Nat) :
    (w.memWrite v n).state = w.state ∧ (w.memWrite v n).fault = w.fault := by
  induction n generalizing w with
  | zero => exact ⟨rfl, rfl⟩
  | succ n ih =>
    obtain ⟨hstate, hfault⟩ := ih (w.appendBit (v.testBit n))
    exact ⟨hstate.trans (w.appendBit_state _), hfault.trans (w.appendBit_fault _)⟩

/-! ## Committed bytes stay -/

theorem Writer.appendBit_bytes (w : Writer) (b : Bool) : w.bytes <+: (w.appendBit b).bytes := by
  unfold Writer.appendBit
  dsimp only
  split
  · exact ⟨_, rfl⟩
  · exact ⟨[], List.append_nil _⟩

theorem Writer.memWrite_bytes (w : Writer) (v n : Nat) : w.bytes <+: (w.memWrite v n).bytes := by
  induction n generalizing w with
  | zero => exact ⟨[], List.append_nil _⟩
  | succ n ih => exact (w.appendBit_bytes _).trans (ih _)

theorem Performs.bytes_kept {s : State} {i : Instr} {w : Writer} {r : Response} (h : Performs s i (.writer w) r)
    (hi : i ≠ .wopen) : s.writer.bytes <+: w.bytes := by
  cases h with
  | opened => exact absurd rfl hi
  | appended => exact s.writer.memWrite_bytes _ _
  | appendFault => rw [Writer.enterFault_bytes]
  | emitted => exact Writer.pad_bytes s.writer ▸ ⟨_, rfl⟩
  | emitFault => rw [Writer.enterFault_bytes]

/-! ## The bits of a stream -/

/-- The byte of the pending bits with one more. -/
def Writer.accWith (w : Writer) (b : Bool) : Byte := w.acc ||| BitVec.ofNat 8 b.toNat <<< (7 - w.cnt.val)

theorem Writer.getLsbD_accWith_self {w : Writer} (h : leftJustified w) (b : Bool) :
    (w.accWith b).getLsbD (7 - w.cnt.val) = b := by
  have hcnt := w.cnt.isLt
  rw [accWith, BitVec.getLsbD_or, Writer.acc_getLsbD_of_leftJustified h (by omega), BitVec.getLsbD_shiftLeft]
  cases b <;> simp
  omega

theorem Writer.getLsbD_accWith_of_gt {w : Writer} (b : Bool) {j : Nat} (h : 7 - w.cnt.val < j) :
    (w.accWith b).getLsbD j = w.acc.getLsbD j := by
  have hcnt := w.cnt.isLt
  have hzero : 1 ≤ j - (7 - w.cnt.val) := by omega
  rw [accWith, BitVec.getLsbD_or, BitVec.getLsbD_shiftLeft]
  cases b <;> simp [BitVec.getLsbD_one]
  omega

/-- The bit goes into the byte of the pending bits, whether or not it completes the byte. -/
theorem Writer.bitAt_image_appendBit (w : Writer) (b : Bool) {k : Nat} (h : k < 8 * (w.bytes.length + 1)) :
    bitAt (w.appendBit b).image k = bitAt (w.bytes ++ [w.accWith b]) k := by
  have hcnt := w.cnt.isLt
  by_cases hlast : w.cnt.val = 7
  · rw [appendBit_of_cnt_seven hlast]
    exact bitAt_concat_of_lt (by simpa using h) 0
  · rw [appendBit_of_cnt_lt (by omega)]; rfl

/-- The writer's stream is `bits`: they stand in its image from bit address 0 on, and nothing else does. -/
structure Writer.Holds (w : Writer) (bits : List Bool) : Prop where
  leftJustified : Spec.leftJustified w
  streaming : w.streaming
  total : w.total.toNat = bits.length
  bit : ∀ k < bits.length, bitAt w.image k = bits[k]?

theorem Writer.holds_create : Writer.create.Holds [] :=
  ⟨rfl, rfl, rfl, nofun⟩

section
variable {w : Writer} {bits : List Bool}

/-- Every unfinished stream is a list of bits. -/
theorem Writer.exists_holds (hjust : leftJustified w) (hstream : w.streaming) : ∃ bits, w.Holds bits := by
  refine ⟨(List.range w.total.toNat).map fun k => (bitAt w.image k).getD false, hjust, hstream, by simp, ?_⟩
  intro k hk
  rw [List.length_map, List.length_range] at hk
  have hcnt := w.cnt.isLt
  have himage : k < 8 * w.image.length := by
    rw [Writer.streaming, Writer.len] at hstream
    rw [Writer.image, List.length_append, List.length_singleton]
    omega
  simp [hk, bitAt_eq_testBit himage]

theorem Writer.Holds.length_eq (h : w.Holds bits) : bits.length = 8 * w.bytes.length + w.cnt.val :=
  h.total.symm.trans h.streaming

theorem Writer.appendBit_eq_written (hjust : leftJustified w) (b : Bool) : w.appendBit b = written w b.toNat 1 := by
  rw [← memWrite_eq_written hjust]
  cases b <;> rfl

/-- `AppendBit` puts the bit at the end of the stream (20_memory.md R32). -/
theorem Writer.Holds.appendBit (h : w.Holds bits) (b : Bool) (hfits : bits.length + 1 < 2 ^ 64) :
    (w.appendBit b).Holds (bits ++ [b]) := by
  have hlen := h.length_eq
  have hcnt := w.cnt.isLt
  have htotal : w.total.toNat + 1 < 2 ^ 64 := by rwa [h.total]
  refine ⟨?_, ?_, ?_, fun k hk => ?_⟩
  · rw [appendBit_eq_written h.leftJustified]
    exact leftJustified_written ..
  · rw [appendBit_eq_written h.leftJustified]
    exact streaming_written _ h.streaming htotal
  · rw [appendBit_eq_written h.leftJustified, written_total_toNat _ _ htotal, h.total]; simp
  rw [List.length_append, List.length_singleton] at hk
  rw [bitAt_image_appendBit w b (by omega)]
  by_cases hlast : k = bits.length
  · rw [hlast, List.getElem?_concat_length, bitAt_concat_last (by omega)]
    rw [show 7 - bits.length % 8 = 7 - w.cnt.val by omega, getLsbD_accWith_self h.leftJustified]
  · rw [List.getElem?_append_left (by omega), ← h.bit k (by omega), Writer.image]
    by_cases hbyte : k < 8 * w.bytes.length
    · rw [bitAt_concat_of_lt hbyte, bitAt_concat_of_lt hbyte]
    · rw [bitAt_concat_last (by omega), bitAt_concat_last (by omega), getLsbD_accWith_of_gt _ (by omega)]

/-- `MemWrite` puts the field at the end of the stream (20_memory.md R34). -/
theorem Writer.Holds.memWrite (h : w.Holds bits) (v : Nat) {n : Nat} (hfits : bits.length + n < 2 ^ 64) :
    (w.memWrite v n).Holds (bits ++ bitsOf v n) := by
  induction n generalizing w bits with
  | zero =>
    rw [bitsOf_zero, List.append_nil]
    exact h
  | succ n ih =>
    have hnext := ih (h.appendBit (v.testBit n) (by omega)) (by simp; omega)
    rwa [List.append_assoc, List.singleton_append, ← bitsOf_succ] at hnext

/-- The committed bytes are the whole bytes of the stream. -/
theorem Writer.Holds.bytes_length (h : w.Holds bits) : w.bytes.length = bits.length / 8 := by
  have hlen := h.length_eq
  have hcnt := w.cnt.isLt
  omega

theorem Writer.Holds.bit_of_append_left {more : List Bool} (h : w.Holds (bits ++ more)) {k : Nat}
    (hk : k < bits.length) : bitAt w.image k = bits[k]? := by
  rw [h.bit k (by rw [List.length_append]; omega), List.getElem?_append_left hk]

theorem Writer.Holds.bit_of_append_right {more : List Bool} (h : w.Holds (bits ++ more)) {j : Nat}
    (hj : j < more.length) : bitAt w.image (bits.length + j) = more[j]? := by
  rw [h.bit _ (by rw [List.length_append]; omega), List.getElem?_append_right (Nat.le_add_right ..),
    Nat.add_sub_cancel_left]

/-- The image ends with zeros behind the stream. -/
theorem Writer.Holds.bitAt_image_eq_false (h : w.Holds bits) {k : Nat} (hge : bits.length ≤ k)
    (hlt : k < 8 * w.image.length) : bitAt w.image k = some false := by
  have hlen := h.length_eq
  have hcnt := w.cnt.isLt
  rw [Writer.image, List.length_append, List.length_singleton] at hlt
  rw [Writer.image, bitAt_concat_last (by omega), Writer.acc_getLsbD_of_leftJustified h.leftJustified (by omega)]

end

/-! ## Signed operands -/

/-- The 64-bit pattern of a signed operand has its low bits. -/
theorem toNat_ofInt_mod {n : Nat} (h : n ≤ 64) (x : Int) :
    (((BitVec.ofInt 64 x).toNat % 2 ^ n : Nat) : Int) = x % 2 ^ n := by
  have hdvd : (2 : Int) ^ n ∣ 2 ^ 64 := pow_dvd_pow 2 h
  have hpattern : ((BitVec.ofInt 64 x).toNat : Int) = x % 2 ^ 64 :=
    (congrArg _ (BitVec.toNat_ofInt ..)).trans (Int.toNat_of_nonneg (Int.emod_nonneg x (by decide)))
  rw [Int.natCast_emod, hpattern, Nat.cast_pow, Nat.cast_ofNat, Int.emod_emod_of_dvd x hdvd]

theorem u64_toInt (v : Word64) : u64 v.toInt = v :=
  BitVec.ofInt_toInt

/-- A write that passes the checks has a width of at most 64, and takes only that many bits of the value. -/
theorem appendBits_congr {n a b : Nat} (h : n ≤ 64 → a % 2 ^ n = b % 2 ^ n) (s : State) :
    appendBits n a s = appendBits n b s := by
  unfold appendBits
  cases hcheck : writeCheck s.cfg s.writer n with
  | some c => rfl
  | none =>
    obtain ⟨-, -, hmax, -⟩ := (writeCheck_eq_none_iff ..).1 hcheck
    dsimp only
    rw [s.writer.memWrite_congr (h hmax)]

theorem appendBits_eq_memWrite {s : State} {n : Nat} (h : writeLegal s n) (v : Nat) :
    appendBits n v s = .next ((s.setWriter (s.writer.memWrite v n)).respond (.ok 0 [])) := by
  rw [appendBits, writeCheck_of_writeLegal h]

theorem exec_writes_eq (s : State) (n : BitVec 8) (v : Word64) : exec (.writes n v) s = exec (.write n v) s := by
  rw [(Appends.writes n v).exec_eq, (Appends.write n v).exec_eq, u64_toInt]

/-! ## The statements -/

/-- Settles O17: the writer's stream is a list of bits, to which the new bit is appended. -/
theorem appendBitPlacesTheBitAtTotal : Obligations.AppendBitPlacesTheBitAtTotal := by
  intro w b hjust hstream hfits
  obtain ⟨bits, hbits⟩ := Writer.exists_holds hjust hstream
  have htotal := hbits.total
  have hnew := hbits.appendBit b (by omega)
  rw [htotal]
  refine ⟨hnew.bit_of_append_right (Nat.zero_lt_succ 0), fun k hk => ?_, ?_, hnew.leftJustified, hnew.streaming,
    w.appendBit_state b, w.appendBit_fault b⟩
  · rw [hnew.bit_of_append_left hk, hbits.bit k hk]
  · rw [hnew.total, List.length_append, List.length_singleton]

/-- Settles O18: each appended bit lengthens the closed form by one, and only the low bits of the value are appended. -/
theorem memWriteEqualsItsClosedForm : Obligations.MemWriteEqualsItsClosedForm :=
  fun w v n hjust _ _ => ⟨memWrite_eq_written hjust v n, w.memWrite_congr (Nat.mod_mod ..)⟩

/-- Settles O22: a signed operand's pattern has the low bits of the operand, and an `N`-bit field cannot extend to a
value outside the signed `N`-bit range. -/
theorem writesAppendsTheTwosComplement : Obligations.WritesAppendsTheTwosComplement := by
  refine ⟨fun s n x hjust _ _ => writeRule_of_exec_eq_appendBits ?_ hjust, exec_writes_eq, fun n x hn hrange => ?_⟩
  · rw [(Appends.writes n _).exec_eq, u64_toInt]
    refine appendBits_congr (fun hmax => ?_) s
    have hlow := toNat_ofInt_mod hmax x
    rw [← hlow, Int.toNat_natCast, Nat.mod_mod]
  · have hpos : (0 : Int) < 2 ^ n := by positivity
    have hlt : (x % 2 ^ n).toNat < 2 ^ n := by
      rw [Int.toNat_lt (Int.emod_nonneg x hpos.ne')]
      exact_mod_cast Int.emod_lt_of_pos x hpos
    obtain ⟨hmin, hmax⟩ := signedField_range hn hlt
    omega

/-- Settles O24: the field's bits are appended to the writer's stream, and the image shows them. -/
theorem writesStoreAtTheAppendPosition : Obligations.WritesStoreAtTheAppendPosition := by
  intro s t i n v hi hjust hstream hlegal hexec
  have hwrite : exec i s = appendBits n.toNat v.toNat s := by
    rcases hi with rfl | rfl
    · rfl
    · exact exec_writes_eq s n v
  rw [hwrite, appendBits_eq_memWrite hlegal] at hexec
  cases hexec
  obtain ⟨hopen, -, -, hfits, -⟩ := hlegal
  obtain ⟨bits, hbits⟩ := Writer.exists_holds hjust hstream
  have htotal := hbits.total
  rw [htotal] at hfits ⊢
  have hnew := hbits.memWrite v.toNat hfits
  have hlength : (bits ++ bitsOf v.toNat n.toNat).length = bits.length + n.toNat := by simp
  obtain ⟨hstate, hfault⟩ := s.writer.memWrite_state_fault v.toNat n.toNat
  obtain ⟨more, hmore⟩ := s.writer.memWrite_bytes v.toNat n.toNat
  refine ⟨fun j hj => ?field, fun k hk => ?kept, hnew.total.trans hlength, ?bytes, fun k hge => ?zeros,
    fun a ha => ?committed, fun _ => rfl, hstate.trans hopen, hfault, rfl, rfl, rfl, rfl⟩
  case field => exact (hnew.bit_of_append_right (by rwa [length_bitsOf])).trans (getElem?_bitsOf _ hj)
  case kept => exact (hnew.bit_of_append_left hk).trans (hbits.bit k hk).symm
  case bytes => exact hnew.bytes_length.trans (by rw [hlength])
  case zeros => exact hnew.bitAt_image_eq_false (hlength.symm ▸ hge)
  case committed =>
    show (s.writer.memWrite v.toNat n.toNat).bytes[a]? = _
    rw [← hmore, List.getElem?_append_left ha]; rfl

/-- Settles O25: only `WOPEN` puts another writer in place; every other command keeps the bytes or appends to them. -/
theorem committedBytesStayUntilWopen : Obligations.CommittedBytesStayUntilWopen := by
  intro i s t hexec hi
  obtain ⟨u, r, hperforms, rfl⟩ := exec_performs hexec
  have hbytes : s.writer.bytes <+: ((u.apply s).deliver r).writer.bytes := by
    cases u with
    | writer w => exact hperforms.bytes_kept hi
    | _ => exact ⟨[], List.append_nil _⟩
  obtain ⟨more, hmore⟩ := hbytes
  exact ⟨more, hmore.symm⟩

end Sys2Proof.Machine
end

section
/-! SUPPORT. `MemRead` bit by bit, the bytes that hold a bit string, and streams of fields written and read back; then
the statements about them (spec 20_memory.md R33, R36, 40_writer.md R78, 41_reader.md R98 to R101, 43_laws.md R121). -/

namespace Sys2Proof.Machine
open Sys2Proof.Spec

/-! ## `MemRead`, bit by bit -/

/-- The loop of `MemRead` may be stopped and resumed. -/
theorem memReadFrom_add (bs : List Byte) (k v m n : Nat) :
    memReadFrom bs k v (m + n) = (memReadFrom bs k v m).bind fun hi => memReadFrom bs (k + m) hi n := by
  induction m generalizing k v with
  | zero => simp [memReadFrom]
  | succ m ih =>
    rw [Nat.succ_add, memReadFrom, memReadFrom]
    cases bitAt bs k with
    | none => rfl
    | some b =>
      dsimp only
      rw [ih, Nat.add_right_comm, Nat.add_assoc]

/-- The bits that the loop starts from stand before those that it reads. -/
theorem memReadFrom_eq_map (bs : List Byte) (k v n : Nat) :
    memReadFrom bs k v n = (memRead bs k n).map fun x => v * 2 ^ n + x := by
  unfold memRead
  induction n generalizing k v with
  | zero => simp [memReadFrom]
  | succ n ih =>
    rw [memReadFrom, memReadFrom]
    cases bitAt bs k with
    | none => rfl
    | some b =>
      dsimp only
      rw [ih, ih _ (2 * 0 + b.toNat), Option.map_map]
      congr 1
      funext x
      rw [Function.comp_apply]
      ring

theorem bitAt_eq_none {bs : List Byte} {k : Nat} (h : 8 * bs.length ≤ k) : bitAt bs k = none := by
  rw [bitAt, byteAt, List.getElem?_eq_none (by omega)]; rfl

theorem memReadFrom_eq_none {bs : List Byte} {k n : Nat} (v : Nat) (hn : 1 ≤ n) (h : 8 * bs.length < k + n) :
    memReadFrom bs k v n = none := by
  induction n generalizing k v with
  | zero => omega
  | succ n ih =>
    rw [memReadFrom]
    by_cases hk : 8 * bs.length ≤ k
    · rw [bitAt_eq_none hk]
    · rw [bitAt_eq_testBit (by omega)]
      exact ih _ (by omega) (by omega)

/-- The bits of a field are those of the buffer from the cursor on, most significant first. -/
theorem bitAt_eq_testBit_fieldAt {bs : List Byte} {k n i : Nat} (h : k + n ≤ 8 * bs.length) (hi : i < n) :
    bitAt bs (k + i) = some ((fieldAt bs k n).testBit (n - 1 - i)) := by
  rw [bitAt_eq_testBit (by omega), fieldAt, Nat.testBit_mod_two_pow, decide_eq_true (by omega), Bool.true_and,
    Nat.testBit_div_two_pow]
  congr 2; omega

theorem rbit_eq_bitAt {bs : List Byte} {k : Nat} {b : Bool} (h : bitAt bs k = some b) : Spec.rbit bs k = b.toNat := by
  unfold bitAt byteAt at h
  obtain ⟨x, hx, rfl⟩ := Option.map_eq_some_iff.1 h
  rw [Spec.rbit, List.getD_eq_getElem?_getD, hx, Option.getD_some, BitVec.getLsbD, Nat.toNat_testBit]

/-- `MemRead` gives `v` if the bits at the cursor are those of the field of `v`. -/
theorem memRead_eq_of_bits {bs : List Byte} {k n v : Nat} (h : k + n ≤ 8 * bs.length)
    (hbits : ∀ i < n, bitAt bs (k + i) = (bitsOf v n)[i]?) : memRead bs k n = some (v % 2 ^ n) := by
  rw [memRead_eq_fieldAt h]
  congr 1
  refine Nat.eq_of_testBit_eq fun j => ?_
  by_cases hj : j < n
  · have hbit := hbits (n - 1 - j) (by omega)
    rw [bitAt_eq_testBit_fieldAt h (by omega), getElem?_bitsOf v (by omega), Option.some_inj,
      show n - 1 - (n - 1 - j) = j by omega] at hbit
    rw [hbit, Nat.testBit_mod_two_pow, decide_eq_true hj, Bool.true_and]
  · simp [fieldAt, hj]

/-! ## The bytes that hold a bit string (40_writer.md R78) -/

/-- The number of `n` bits, first bit most significant. -/
def msbFirst (f : Nat → Bool) (n : Nat) : Nat := (List.range n).foldl (fun acc i => 2 * acc + (f i).toNat) 0

theorem packBits_eq (bits : List Bool) : packBits bits = (List.range ((bits.length + 7) / 8)).map fun j =>
    BitVec.ofNat 8 (msbFirst (fun i => bits.getD (8 * j + i) false) 8) := rfl

@[simp] theorem length_packBits (bits : List Bool) : (packBits bits).length = (bits.length + 7) / 8 := by
  simp [packBits]

theorem msbFirst_succ (f : Nat → Bool) (n : Nat) : msbFirst f (n + 1) = 2 * msbFirst f n + (f n).toNat := by
  simp [msbFirst, List.range_succ]

theorem testBit_msbFirst (f : Nat → Bool) {n i : Nat} (h : i < n) : (msbFirst f n).testBit (n - 1 - i) = f i := by
  induction n with
  | zero => omega
  | succ n ih =>
    have hb := (f n).toNat_lt
    rw [msbFirst_succ]
    by_cases hi : i = n
    · rw [hi, show n + 1 - 1 - n = 0 by omega]
      cases f n <;> simp [Nat.testBit_zero]
    · rw [show n + 1 - 1 - i = n - 1 - i + 1 by omega, Nat.testBit_add_one, show (2 * msbFirst f n + (f n).toNat) / 2 =
        msbFirst f n by omega, ih (by omega)]

/-- The bits stand in the bytes from bit address 0 on, with zeros behind them. -/
theorem bitAt_packBits {bits : List Bool} {k : Nat} (h : k < 8 * (packBits bits).length) :
    bitAt (packBits bits) k = some (bits.getD k false) := by
  rw [length_packBits] at h
  rw [packBits_eq, bitAt, byteAt, List.getElem?_map, List.getElem?_range (by omega), Option.map_some, Option.map_some,
    BitVec.getLsbD_ofNat, decide_eq_true (by omega), Bool.true_and, show 7 - k % 8 = 8 - 1 - k % 8 by omega,
    testBit_msbFirst _ (by omega)]
  congr 2; omega

/-- Byte strings of one length with the same bits are equal. -/
theorem eq_of_bitAt_eq {a b : List Byte} (hlen : a.length = b.length)
    (h : ∀ k < 8 * a.length, bitAt a k = bitAt b k) : a = b := by
  refine List.ext_getElem hlen fun i ha hb => BitVec.eq_of_getLsbD_eq fun j hj => ?_
  have hbit := h (8 * i + (7 - j)) (by omega)
  rw [bitAt, bitAt, byteAt, byteAt, show (8 * i + (7 - j)) / 8 = i by omega, List.getElem?_eq_getElem ha,
    List.getElem?_eq_getElem hb, show 7 - (8 * i + (7 - j)) % 8 = j by omega] at hbit
  simpa using hbit

/-- Padding keeps every bit of the stream. -/
theorem Writer.bitAt_pad {w : Writer} {k : Nat} (h : k < 8 * w.bytes.length + w.cnt.val) :
    bitAt w.pad.bytes k = bitAt w.image k := by
  rw [Writer.pad_bytes, Writer.image]
  split
  next hcnt =>
    rw [hcnt, Fin.val_zero] at h
    rw [List.append_nil, bitAt_concat_of_lt h]
  next => rfl

/-- The padded bytes of a stream are its bits cut into bytes. -/
theorem Writer.Holds.pad_bytes {w : Writer} {bits : List Bool} (h : w.Holds bits) : w.pad.bytes = packBits bits := by
  have hlen : w.pad.bytes.length = (bits.length + 7) / 8 := (Writer.pad_length h.streaming).trans (by rw [h.total])
  refine eq_of_bitAt_eq (by rw [hlen, length_packBits]) fun k hk => ?_
  rw [bitAt_packBits (by rwa [length_packBits, ← hlen]), List.getD_eq_getElem?_getD]
  by_cases hin : k < bits.length
  · rw [List.getElem?_eq_getElem hin, Option.getD_some, ← List.getElem?_eq_getElem hin, ← h.bit k hin,
      Writer.bitAt_pad (by rwa [← h.length_eq])]
  · rw [Writer.pad_bit_eq_false h.leftJustified h.streaming (by rw [h.total]; omega) hk,
      List.getElem?_eq_none (by omega)]; rfl

/-- A field is read back from where its bits stand. -/
theorem memRead_packBits (before after : List Bool) (v n : Nat) :
    memRead (packBits (before ++ bitsOf v n ++ after)) before.length n = some (v % 2 ^ n) := by
  have hlen : (before ++ bitsOf v n ++ after).length = before.length + n + after.length := by simp; omega
  have hbytes := length_packBits (before ++ bitsOf v n ++ after)
  refine memRead_eq_of_bits (by omega) fun i hi => ?_
  rw [bitAt_packBits (by omega), List.getD_eq_getElem?_getD, List.append_assoc,
    List.getElem?_append_right (Nat.le_add_right ..), Nat.add_sub_cancel_left,
    List.getElem?_append_left (by rwa [length_bitsOf]), getElem?_bitsOf v hi, Option.getD_some]

/-! ## The signed value of a field -/

theorem sext_emod (n v : Nat) : sext n v % 2 ^ n = v % 2 ^ n := by
  unfold sext
  split
  · exact Int.sub_emod_right ..
  · rfl

/-- The signed range of `n` bits holds one number of each class modulo `2^n`. -/
theorem eq_of_emod_eq_of_signed_range {n : Nat} (hn : 1 ≤ n) {x y : Int} (h : (x - y) % 2 ^ n = 0)
    (hx : -2 ^ (n - 1) ≤ x ∧ x < 2 ^ (n - 1)) (hy : -2 ^ (n - 1) ≤ y ∧ y < 2 ^ (n - 1)) : x = y := by
  obtain ⟨m, rfl⟩ := Nat.exists_eq_add_of_le' hn
  rw [Nat.add_sub_cancel] at hx hy
  have habs : |x - y| < 2 ^ (m + 1) := by
    rw [abs_lt, pow_succ]
    omega
  exact sub_eq_zero.1 (Int.eq_zero_of_abs_lt_dvd (Int.dvd_of_emod_eq_zero h) habs)

theorem getLsbD_eq_of_toNat_mod_eq {a b : Word64} {n j : Nat} (h : a.toNat % 2 ^ n = b.toNat % 2 ^ n) (hj : j < n) :
    a.getLsbD j = b.getLsbD j := by
  have hbit := congrArg (Nat.testBit · j) h
  simp only [Nat.testBit_mod_two_pow, hj, decide_true, Bool.true_and] at hbit
  exact hbit

/-- Zero- and sign-extension keep the low bits. -/
theorem extend_toNat_mod {n : Nat} (hn : n ≤ 64) (v : Nat) :
    (zext64 v).toNat % 2 ^ n = (u64 (sext n v)).toNat % 2 ^ n := by
  have hzero : (zext64 v).toNat % 2 ^ n = v % 2 ^ n := by
    rw [zext64, BitVec.toNat_ofNat, Nat.mod_mod_of_dvd v (pow_dvd_pow 2 hn)]
  have hsign : (((u64 (sext n v)).toNat % 2 ^ n : Nat) : Int) = (v % 2 ^ n : Nat) := by
    rw [u64, toNat_ofInt_mod hn, sext_emod, Int.natCast_emod, Nat.cast_pow, Nat.cast_ofNat]
  rw [hzero, Int.natCast_inj.1 hsign]

/-! ## A fetch that succeeds -/

theorem fetch_succeeds {s t : State} {i : Instr} {r : BitVec 4} {n : Nat} {extend : Nat → Word64} {a : Word64}
    (hi : Fetches i r n extend) (h : exec i s = .next t) (hout : t.out = answered s a []) :
    ∃ rd v, s.readers[r.toNat]? = some rd ∧ readCheck rd n = none ∧ memRead s.rbuf.bytes rd.pos.toNat n = some v ∧
      a = extend v ∧ t = (s.modifyReader r.toNat (·.advance n)).respond (.ok (extend v) []) := by
  rw [hi.exec_eq] at h
  rcases fetchBits_cases r n extend s with
      ⟨-, e⟩ | ⟨rd, hrd, ⟨c, -, e⟩ | ⟨hcheck, ⟨v, hread, e⟩ | ⟨-, e⟩⟩⟩ <;> cases e.symm.trans h
  · cases response_eq_of_out_eq rfl hout
  · cases response_eq_of_out_eq rfl hout
  · cases response_eq_of_out_eq rfl hout
    exact ⟨rd, v, hrd, hcheck, hread, rfl, rfl⟩

/-! ## The statements -/

/-- Settles O19: both loops go bit by bit, so a field may be cut between any two of its bits. -/
theorem fieldsMayBeCutAnywhere : Obligations.FieldsMayBeCutAnywhere := by
  refine ⟨fun w a m b n => ?_, fun bs k m n => ?_⟩
  · rw [Writer.memWrite_eq_foldl, Writer.memWrite_eq_foldl, Writer.memWrite_eq_foldl, bitsOf_concat,
      List.foldl_append]
  · rw [memRead, memReadFrom_add]
    exact congrArg _ (funext fun hi => memReadFrom_eq_map bs (k + m) hi n)

/-- Settles O33: the field at the cursor is cut out of the buffer's number, whose bits are the buffer's. -/
theorem memReadIsTheBitsMsbFirst : Obligations.MemReadIsTheBitsMsbFirst := by
  refine fun bs k n hn => ⟨fun h => ⟨_, memRead_eq_fieldAt h, rfl, fieldAt_lt .., fun i hi => ?_⟩,
    memReadFrom_eq_none 0 hn⟩
  exact (rbit_eq_bitAt (bitAt_eq_testBit_fieldAt h hi)).symm

/-- Settles O34: no cursor wraps within a 64-bit limit, so the moves add up. -/
theorem skipsCompose : Obligations.SkipsCompose := by
  intro s r a b rd hrd hopen hleft
  have hlimit := rd.limit.isLt
  have hsum : (a + b).toNat = a.toNat + b.toNat := BitVec.toNat_add_of_lt (by omega)
  have hpos : (rd.pos + a).toNat = rd.pos.toNat + a.toNat := BitVec.toNat_add_of_lt (by omega)
  obtain ⟨hrange, -⟩ := List.getElem?_eq_some_iff.1 hrd
  refine ⟨_, _, _, execSkip_of_legal hrd hopen (by omega),
    execSkip_of_legal (rd := { rd with pos := rd.pos + a }) (List.getElem?_set_self hrange) hopen ?_,
    execSkip_of_legal hrd hopen (by omega), ?_⟩
  · dsimp only
    omega
  · simp [List.set_set, BitVec.add_assoc]

/-- Settles O35: the two commands fetch the same bits, and extending them keeps the low ones. -/
theorem readAndReadsAgree : Obligations.ReadAndReadsAgree := by
  intro s t u r n a b hread hreads ha hb
  obtain ⟨rd, v, hrd, hcheck, hv, rfl, rfl⟩ := fetch_succeeds (.read r n) hread ha
  obtain ⟨rd', v', hrd', -, hv', rfl, rfl⟩ := fetch_succeeds (.reads r n) hreads hb
  cases hrd.symm.trans hrd'
  cases hv.symm.trans hv'
  obtain ⟨-, -, hmax, -⟩ := (readCheck_eq_none_iff ..).1 hcheck
  exact ⟨rfl, fun j => getLsbD_eq_of_toNat_mod_eq (extend_toNat_mod hmax v)⟩

/-- Settles O36: the field's bits end the stream, from which they are read back, and the signed range holds one number
congruent to the operand. -/
theorem signedFieldsReadBackModuloTheWidth : Obligations.SignedFieldsReadBackModuloTheWidth := by
  intro w x n hjust hstream hfits hn hmax _ _
  obtain ⟨bits, hbits⟩ := Writer.exists_holds hjust hstream
  have hnew := hbits.memWrite (u64 x).toNat (n := n) (by rwa [← hbits.total])
  have hread := memRead_packBits bits [] (u64 x).toNat n
  rw [List.append_nil, ← hnew.pad_bytes, ← hbits.total] at hread
  have hmod : (((u64 x).toNat % 2 ^ n : Nat) : Int) = x % 2 ^ n := toNat_ofInt_mod hmax x
  have hlt : (u64 x).toNat % 2 ^ n < 2 ^ n := Nat.mod_lt _ (Nat.two_pow_pos n)
  have hrange := signedField_range hn hlt
  rw [← sext_eq_signedField hlt] at hrange
  have hcongr : (sext n ((u64 x).toNat % 2 ^ n) - x) % 2 ^ n = 0 := by
    rw [← Int.emod_eq_emod_iff_emod_sub_eq_zero, sext_emod, hmod, Int.emod_emod]
  obtain ⟨hmin, hmax⟩ := hrange
  exact ⟨_, hread, hmod, hcongr, hmin, hmax, fun h => h ▸ ⟨hmin, hmax⟩,
    eq_of_emod_eq_of_signed_range hn hcongr ⟨hmin, hmax⟩⟩

end Sys2Proof.Machine
end

section
/-! SUPPORT. Lists of writes and lists of reads, field by field; then the statements about emitted streams and their
read-back (spec 40_writer.md R78, 41_reader.md R101). -/

namespace Sys2Proof.Machine
open Sys2Proof.Spec

theorem execAll_append {is js : List Instr} {s t : State} (h : execAll is s = .next t) :
    execAll (is ++ js) s = execAll js t := by
  induction is generalizing s with
  | nil => cases h; rfl
  | cons i is ih =>
    rw [List.cons_append, execAll]
    rw [execAll] at h
    cases hi : exec i s with
    | next u => rw [hi] at h; exact ih h
    | fault f => rw [hi] at h; cases h
    | refused q => rw [hi] at h; cases h

theorem execAll_cons {i : Instr} {is : List Instr} {s t : State} (h : exec i s = .next t) :
    execAll (i :: is) s = execAll is t := by
  rw [execAll, h]

/-! ## Fields -/

theorem exec_fieldWrite (f : Field) (s : State) : exec f.write s = appendBits f.2.1.toNat f.2.2.toNat s := by
  rw [Field.write]
  split
  · exact exec_writes_eq ..
  · rfl

@[simp] theorem streamLength_cons (f : Field) (fs : List Field) :
    streamLength (f :: fs) = f.2.1.toNat + streamLength fs := rfl

@[simp] theorem streamBits_cons (f : Field) (fs : List Field) : streamBits (f :: fs) = f.bits ++ streamBits fs := rfl

@[simp] theorem length_fieldBits (f : Field) : f.bits.length = f.2.1.toNat := length_bitsOf ..

@[simp] theorem length_streamBits (fs : List Field) : (streamBits fs).length = streamLength fs := by
  induction fs with
  | nil => rfl
  | cons f fs ih => rw [streamBits_cons, List.length_append, ih, length_fieldBits, streamLength_cons]

theorem fitsBuffer_of_le {c : Config} {m n : Nat} (hle : m ≤ n) (h : fitsBuffer c n) : fitsBuffer c m :=
  fun bound hbound => hle.trans (h bound hbound)

/-! ## Writing -/

/-- A list of writes within the bounds appends the bits of its fields. -/
theorem execAll_writes {fs : List Field} : ∀ {s : State} {bits : List Bool}, s.writer.state = .opened →
    s.writer.Holds bits → legalFields fs → bits.length + streamLength fs < 2 ^ 64 →
    fitsBuffer s.cfg ((bits.length + streamLength fs + 7) / 8) →
    ∃ t, execAll (fs.map Field.write) s = .next t ∧ t.writer.state = .opened ∧
      t.writer.Holds (bits ++ streamBits fs) ∧
      t.out = s.out ++ List.replicate fs.length (.response (.ok 0 [])) := by
  induction fs with
  | nil =>
    intro s bits hopen hbits _ _ _
    exact ⟨s, rfl, hopen, (List.append_nil bits).symm ▸ hbits, (List.append_nil s.out).symm⟩
  | cons f fs ih =>
    intro s bits hopen hbits hlegal hfits hbuffer
    obtain ⟨⟨hmin, hmax⟩, hrest⟩ := List.forall_mem_cons.1 hlegal
    rw [streamLength_cons, ← Nat.add_assoc] at hfits hbuffer
    have hwrite : writeLegal s f.2.1.toNat := by
      refine ⟨hopen, hmin, hmax, ?_, fitsBuffer_of_le ?_ hbuffer⟩ <;> rw [hbits.total] <;> omega
    have hexec := (exec_fieldWrite f s).trans (appendBits_eq_memWrite hwrite _)
    have hnext := hbits.memWrite f.2.2.toNat (n := f.2.1.toNat) (by omega)
    have hlen : (bits ++ f.bits).length = bits.length + f.2.1.toNat := by simp
    obtain ⟨hstate, -⟩ := s.writer.memWrite_state_fault f.2.2.toNat f.2.1.toNat
    obtain ⟨t, hall, hopen', hbits', hout⟩ := ih
      (s := (s.setWriter (s.writer.memWrite f.2.2.toNat f.2.1.toNat)).respond (.ok 0 []))
      (hstate.trans hopen) hnext hrest (hlen ▸ hfits) (hlen ▸ hbuffer)
    refine ⟨t, (execAll_cons hexec).trans hall, hopen', ?_, ?_⟩
    · rwa [streamBits_cons, ← List.append_assoc]
    · rw [hout, State.respond_out, List.append_assoc]; rfl

/-! ## Reading -/

/-- What a `READ` of the field answers (41_reader.md R101). -/
def readAnswer (f : Field) : PortOutput := .response (.ok (BitVec.ofNat 64 (f.2.2.toNat % 2 ^ f.2.1.toNat)) [])

theorem exec_read_field {s : State} {r : BitVec 4} {rd : Reader} {before after : List Bool} {f : Field}
    (hrd : s.readers[r.toNat]? = some rd) (hopen : rd.state = .opened) (hpos : rd.pos.toNat = before.length)
    (hbytes : s.rbuf.bytes = packBits (before ++ f.bits ++ after)) (hmin : 1 ≤ f.2.1.toNat) (hmax : f.2.1.toNat ≤ 64)
    (hleft : before.length + f.2.1.toNat ≤ rd.limit.toNat) : exec (.read r f.2.1) s = .next { s with
      readers := s.readers.set r.toNat (rd.advance f.2.1.toNat)
      out := s.out ++ [readAnswer f] } := by
  have hread := memRead_packBits before after f.2.2.toNat f.2.1.toNat
  rw [← hpos] at hleft hread
  rw [(Fetches.read r f.2.1).exec_eq, fetchBits, onReader_of_present hrd,
    (readCheck_eq_none_iff ..).2 ⟨hopen, hmin, hmax, hleft⟩, hbytes, Field.bits, hread, modifyReader_eq_set hrd]
  rfl

/-- Reader `r` is OPEN at bit address `pos` with the given limit. -/
def OpenAt (s : State) (r : BitVec 4) (limit : Word64) (pos : Nat) : Prop :=
  ∃ rd, s.readers[r.toNat]? = some rd ∧ rd.state = .opened ∧ rd.limit = limit ∧ rd.pos.toNat = pos

theorem openAt_set {s : State} {r : BitVec 4} {rd : Reader} (hr : r.toNat < s.readers.length)
    (hopen : rd.state = .opened) (out : List PortOutput) :
    OpenAt { s with readers := s.readers.set r.toNat rd, out := out } r rd.limit rd.pos.toNat :=
  ⟨rd, List.getElem?_set_self hr, hopen, rfl, rfl⟩

/-- A list of reads over the bytes of a stream answers the fields and moves the cursor by their bits. -/
theorem execAll_reads {fs : List Field} {r : BitVec 4} {limit : Word64} : ∀ {s : State} {before : List Bool},
    OpenAt s r limit before.length → s.rbuf.bytes = packBits (before ++ streamBits fs) → legalFields fs →
    before.length + streamLength fs ≤ limit.toNat →
    ∃ t, execAll (fs.map fun f => .read r f.2.1) s = .next t ∧ t.out = s.out ++ fs.map readAnswer ∧
      OpenAt t r limit (before.length + streamLength fs) := by
  induction fs with
  | nil =>
    intro s before hat _ _ _
    exact ⟨s, rfl, (List.append_nil s.out).symm, hat⟩
  | cons f fs ih =>
    intro s before hat hbytes hlegal hleft
    obtain ⟨rd, hrd, hopen, rfl, hpos⟩ := hat
    obtain ⟨⟨hmin, hmax⟩, hrest⟩ := List.forall_mem_cons.1 hlegal
    obtain ⟨hlt, -⟩ := List.getElem?_eq_some_iff.1 hrd
    have hlen : (before ++ f.bits).length = before.length + f.2.1.toNat := by simp
    have hcount : (BitVec.ofNat 64 f.2.1.toNat).toNat = f.2.1.toNat := Nat.mod_eq_of_lt (by omega)
    rw [streamLength_cons, ← Nat.add_assoc] at hleft ⊢
    rw [streamBits_cons, ← List.append_assoc] at hbytes
    have hpos' : (rd.advance f.2.1.toNat).pos.toNat = (before ++ f.bits).length := by
      rw [Reader.advance_pos, toNat_pos_add (by rw [hcount]; omega), hcount, hpos, hlen]
    have hexec := exec_read_field hrd hopen hpos hbytes hmin hmax (by omega)
    have hat := openAt_set (rd := rd.advance f.2.1.toNat) hlt hopen (s.out ++ [readAnswer f])
    rw [hpos'] at hat
    obtain ⟨t, hall, hout, hat⟩ := ih hat hbytes hrest (hlen ▸ hleft)
    refine ⟨t, (execAll_cons hexec).trans hall, ?_, hlen ▸ hat⟩
    rw [hout, List.append_assoc]; rfl

/-! ## The statements -/

/-- Settles O26: the writes extend the stream of the new writer, and the padding cuts it into bytes. -/
theorem emittedStreamIsTheConcatenation : Obligations.EmittedStreamIsTheConcatenation := by
  intro fs s hlegal hfits hbuffer
  obtain ⟨t, hwrites, hopen, hbits, hout⟩ := execAll_writes (s := (s.setWriter Writer.create).respond (.ok 0 []))
    (bits := []) rfl Writer.holds_create hlegal (by simpa using hfits) (by simpa using hbuffer)
  rw [List.nil_append] at hbits
  have htotal : t.writer.total.toNat = streamLength fs := hbits.total.trans (length_streamBits fs)
  have hvalue : BitVec.ofNat 64 (streamLength fs) = t.writer.total := by
    rw [← htotal, BitVec.ofNat_toNat, BitVec.setWidth_eq]
  have hall := (execAll_cons (i := .wopen) rfl).trans ((execAll_append hwrites).trans
    (execAll_cons (i := .pademit) (is := []) (execPademit_of_opened hbits.leftJustified hopen)))
  refine ⟨_, hall, ?_, rfl, htotal⟩
  dsimp only [answered]
  rw [hout, hbits.pad_bytes, hvalue, List.replicate_succ]
  simp

/-- Settles O37: `RLOAD` puts the packed fields in the buffer, `ROPEN` a reader at its start, and each read takes the
next field. -/
theorem readersReturnTheWrittenFields : Obligations.ReadersReturnTheWrittenFields := by
  intro fs s r limit hlegal hr hfits hlong hlimit
  have hclosed : ((s.loadBuffer (packBits (streamBits fs))).respond (.ok 0 [])).readers[r.toNat]? =
      some Reader.close := by simp [hr]
  have hropen := execRopen_of_legal hclosed rfl hlimit
  have hat := openAt_set (s := (s.loadBuffer (packBits (streamBits fs))).respond (.ok 0 [])) (r := r)
    (rd := .create limit) (by simpa using hr) rfl (s.out ++ [.response (.ok 0 [])] ++ [.response (.ok 0 [])])
  obtain ⟨t, hreads, hout, hend⟩ := execAll_reads (before := []) hat rfl hlegal
    ((Nat.zero_add _).symm ▸ hlong)
  rw [List.length_nil, Nat.zero_add] at hend
  have hall := (execAll_cons (i := .rload _) (execRload_of_fits hfits)).trans
    ((execAll_cons (i := .ropen _ _) hropen).trans hreads)
  refine ⟨t, hall, ?_, hend, fun hexact n hmin hmax => ?_⟩
  · rw [hout, List.append_assoc s.out]; rfl
  · obtain ⟨rd, hrd, hopen, hlim, hpos⟩ := hend
    have hover : rd.limit.toNat < rd.pos.toNat + n.toNat := by
      rw [hlim, hpos, ← hexact]
      exact Nat.lt_add_of_pos_right hmin
    exact fetchBits_of_fault hrd (readCheck_streamExhausted hopen hmin hmax hover)

end Sys2Proof.Machine
end

section
/-! SUPPORT. The table recurrence on sums of words, and one table lookup against eight bit-serial steps; then the
statements about checksums (spec 42_crc.md R110 to R117). -/

namespace Sys2Proof.Machine
open Sys2Proof.Spec

/-! ## The table recurrence, on sums of words -/

/-- A word whose bit 0 is clear goes through a step of the recurrence as a mere shift, beside any other word. -/
theorem crcShift_xor_of_even (a : CrcWord) {z : CrcWord} (h : z.getLsbD 0 = false) :
    crcShift (a ^^^ z) = crcShift a ^^^ z >>> 1 := by
  unfold crcShift
  rw [BitVec.getLsbD_xor, h, Bool.xor_false, BitVec.ushiftRight_xor_distrib]
  split
  · rw [BitVec.xor_assoc, BitVec.xor_comm (z >>> 1), ← BitVec.xor_assoc]
  · rfl

/-- The same for `n` steps and a word whose low `n` bits are clear. -/
theorem crcShifts_xor_of_clear (a z : CrcWord) {n : Nat} (h : ∀ j < n, z.getLsbD j = false) :
    crcShifts (a ^^^ z) n = crcShifts a n ^^^ z >>> n := by
  induction n generalizing a z with
  | zero => simp [crcShifts]
  | succ n ih =>
    have hnext : ∀ j < n, (z >>> 1).getLsbD j = false := fun j hj => by
      rw [BitVec.getLsbD_ushiftRight]
      exact h _ (by omega)
    rw [crcShifts, crcShifts, crcShift_xor_of_even a (h 0 (by omega)), ih _ _ hnext, ← BitVec.shiftRight_add,
      Nat.add_comm]

/-- `n` steps, seen from their last. -/
theorem crcShifts_succ_last (c : CrcWord) (n : Nat) : crcShifts c (n + 1) = crcShift (crcShifts c n) := by
  induction n generalizing c with
  | zero => rfl
  | succ n ih => rw [crcShifts, ih, crcShifts]

/-! ## One byte (42_crc.md R112, R113) -/

/-- One bit as a word. -/
def bitWord (b : Bool) : CrcWord := (BitVec.ofBool b).setWidth 32

@[simp] theorem getLsbD_bitWord_zero (b : Bool) : (bitWord b).getLsbD 0 = b := by
  cases b <;> rfl

@[simp] theorem bitWord_shiftRight_one (b : Bool) : bitWord b >>> 1 = 0 := by
  cases b <;> rfl

/-- A bit-serial step is a step of the recurrence on the word with the bit added. -/
theorem crcSerialBit_eq (c : CrcWord) (b : Bool) : crcSerialBit c b = crcShift (c ^^^ bitWord b) := by
  rw [crcSerialBit, crcShift, BitVec.getLsbD_xor, getLsbD_bitWord_zero, BitVec.ushiftRight_xor_distrib,
    bitWord_shiftRight_one]
  simp [crcPoly]

/-- After `n` bit-serial steps the rest of the byte has still to be added. -/
theorem crcSerial_steps (crc : CrcWord) (b : Byte) (n : Nat) :
    (List.range n).foldl (fun c i => crcSerialBit c (b.getLsbD i)) crc =
      crcShifts (crc ^^^ b.setWidth 32) n ^^^ b.setWidth 32 >>> n := by
  induction n with
  | zero => simp [crcShifts]
  | succ n ih =>
    have hclear : (b.setWidth 32 >>> n ^^^ bitWord (b.getLsbD n)).getLsbD 0 = false := by
      rw [BitVec.getLsbD_xor, getLsbD_bitWord_zero, BitVec.getLsbD_ushiftRight, BitVec.getLsbD_setWidth]
      by_cases hn : n < 32
      · simp [hn]
      · simp [hn, BitVec.getLsbD_of_ge b n (by omega)]
    rw [List.range_succ, List.foldl_append, List.foldl_cons, List.foldl_nil, ih, crcSerialBit_eq, BitVec.xor_assoc,
      crcShift_xor_of_even _ hclear, ← crcShifts_succ_last, BitVec.ushiftRight_xor_distrib, bitWord_shiftRight_one,
      ← BitVec.shiftRight_add]
    simp

theorem crcSerialByte_eq (crc : CrcWord) (b : Byte) : crcSerialByte crc b = crcShifts (crc ^^^ b.setWidth 32) 8 := by
  have hdone : b.setWidth 32 >>> 8 = 0#32 := by
    ext j
    simp
  rw [crcSerialByte, crcSerial_steps, hdone, BitVec.xor_zero]

/-- Of the working value with the byte added, the low byte selects the table entry and the rest is shifted. -/
theorem crcUpdate_eq (crc : CrcWord) (b : Byte) : crcUpdate crc b = crcShifts (crc ^^^ b.setWidth 32) 8 := by
  have hsplit : ∀ x low : CrcWord, x = low ^^^ (x ^^^ low) := fun x low => by
    rw [BitVec.xor_comm x, ← BitVec.xor_assoc, BitVec.xor_self, BitVec.zero_xor]
  have hclear : ∀ j < 8, (crc ^^^ b.setWidth 32 ^^^
      ((crc ^^^ b.setWidth 32).setWidth 8).setWidth 32).getLsbD j = false := fun j hj => by
    simp [hj, show j < 32 by omega]
  rw [hsplit (crc ^^^ b.setWidth 32) (((crc ^^^ b.setWidth 32).setWidth 8).setWidth 32),
    crcShifts_xor_of_clear _ _ hclear, crcUpdate, crcTable]
  congr 1
  ext j
  simp

theorem crcUpdate_eq_crcSerialByte (crc : CrcWord) (b : Byte) : crcUpdate crc b = crcSerialByte crc b :=
  (crcUpdate_eq crc b).trans (crcSerialByte_eq crc b).symm

theorem crcOf_eq_crcSerial (payload : List Byte) : crcOf payload = crcSerial payload := by
  rw [crcOf, crcSerial, funext fun crc => funext (crcUpdate_eq_crcSerialByte crc)]
  rfl

theorem zext64_toNat (c : CrcWord) : zext64 c.toNat = c.setWidth 64 :=
  BitVec.ofNat_toNat ..

theorem compared_eq (x y : CrcWord) : CrcStatus.compared x y = ⟨true, x, true, y, decide (x ≠ y)⟩ := by
  by_cases h : x = y <;> simp [CrcStatus.compared, h]

/-! ## The statements -/

/-- Settles O40: both updates are eight steps of the recurrence on the working value with the byte added. -/
theorem tableChecksumEqualsBitSerial : Obligations.TableChecksumEqualsBitSerial :=
  ⟨crcUpdate_eq_crcSerialByte, crcOf_eq_crcSerial, by decide +kernel⟩

/-- Settles O38: `CRC32` answers `crcOf`, which is the bit-serial checksum. -/
theorem crcCommandReportsTheChecksum : Obligations.CrcCommandReportsTheChecksum := by
  intro s payload
  rw [← crcOf_eq_crcSerial, ← zext64_toNat]; rfl

/-- Settles O39: `CRCCHK` compares `crcOf` and only warns. -/
theorem crcCheckWarnsAndNeverFaults : Obligations.CrcCheckWarnsAndNeverFaults := by
  intro s expected payload
  rw [← crcOf_eq_crcSerial, ← zext64_toNat, ← compared_eq]; rfl

/-- Settles O41: each landmark is one evaluation of the table or of the checksum. -/
theorem checksumLandmarks : Obligations.ChecksumLandmarks := by
  refine ⟨?_, ?_, ?_, ?_, ?_, ?_⟩ <;> decide +kernel

end Sys2Proof.Machine
end
